-- ==== Sys2Proof/Word.lean ====
section
/-! DEFINITION. The word types (R9, R57) and the operation words a host drives on the core's ports (R70, R73).

The core has no instruction words. What stands in their place is one assignment of the input ports: format `IPC` for
one evaluation of the classifier, format `IFD` for one clock cycle of the decoder. -/

namespace Sys2Proof

/-- An unsigned 32-bit value: a duration in microseconds, a symbol count or a payload word (R9). -/
abbrev Word := BitVec 32

/-- An unsigned 8-bit value: a field of the decoded frame (R9). -/
abbrev Byte := BitVec 8

/-- The two formats of operation words (R70, R73). -/
inductive Format
  /-- One evaluation of `infrared_pulse_classifier` (R70). -/
  | ipc
  /-- One clock cycle of `infrared_frame_decoder` (R73). -/
  | ifd
  deriving DecidableEq, Repr

/-- One operation word: what the host drives on one block's input ports. -/
inductive PortWord
  /-- Format `IPC` (R70): `role_i` is bit 64, `mark_i` bits 63 to 32, `space_i` bits 31 to 0. -/
  | ipc (w : BitVec 65)
  /-- Format `IFD` (R73): `ctrl` is `rst_i`, `start_i`, `sym_valid_i` from bit 2 down to bit 0, and the three operand
  buses `count_i`, `sym_mark_i`, `sym_space_i` carry a value in every cycle, read or not. -/
  | ifd (ctrl : BitVec 3) (count mark space : Word)
  deriving DecidableEq, Repr

/-- The format of an operation word. -/
def PortWord.format : PortWord → Format
  | .ipc _ => .ipc
  | .ifd _ _ _ _ => .ifd

end Sys2Proof
end

