-- ==== Sys2Proof/Config.lean ====
section
/-! DEFINITION. The elaboration parameters of the core (R7, R8): six timing references and one margin, fixed before the
core runs. The references have the spec's default values (D3). `MARGIN` is open (D4): a constant with no body. -/

namespace Sys2Proof

/-- The seven elaboration parameters, each an unsigned 32-bit number of microseconds (R7, R8). -/
structure Params where
  /-- `T_LEAD_MARK`: lead-mark duration. -/
  tLeadMark : Word
  /-- `T_LEAD_SPACE_NORMAL`: lead-space duration, normal frame. -/
  tLeadSpaceNormal : Word
  /-- `T_LEAD_SPACE_REPEAT`: lead-space duration, repeat-code frame. -/
  tLeadSpaceRepeat : Word
  /-- `T_BIT_MARK`: bit-mark duration. -/
  tBitMark : Word
  /-- `T_BIT_SPACE_0`: bit-space-short, logical 0. -/
  tBitSpace0 : Word
  /-- `T_BIT_SPACE_1`: bit-space-long, logical 1. -/
  tBitSpace1 : Word
  /-- `MARGIN`: the one tolerance, the same for all six references. -/
  margin : Word
  deriving DecidableEq, Repr

/-- The six default references of R7 with a given margin. -/
def Params.nominal (margin : Word) : Params where
  tLeadMark := 9000
  tLeadSpaceNormal := 4500
  tLeadSpaceRepeat := 2250
  tBitMark := 560
  tBitSpace0 := 560
  tBitSpace1 := 1690
  margin := margin

/-- `MARGIN` of the machine `State.reset` describes. The spec gives no value (R8, D4), so no proof can see one
(DESIGN CHOICE to hold it as a constant with no body, safe; log 4). -/
opaque Config.margin : Word

/-- The parameters of the machine `State.reset` describes: the default references, the open margin (log 3, log 4). -/
def Config.params : Params := Params.nominal Config.margin

end Sys2Proof
end

