-- ==== Sys2Proof/Syntax.lean ====
section
/-! DEFINITION. The operations of the core, one constructor per row of spec/opcode_table.json (R70, R74, R83). An operand
that the operation does not read is no argument of it (R73). -/

namespace Sys2Proof

/-- The six operations a host performs on the core's ports. -/
inductive Instr
  /-- `CLASSIFY.LEAD m, s`: one evaluation of the classifier with role lead (R105). -/
  | classifyLead (mark space : Word)
  /-- `CLASSIFY.BIT m, s`: one evaluation of the classifier with role bit (R106). -/
  | classifyBit (mark space : Word)
  /-- `RESET`: a decoder cycle with `rst_i = 1` (R210). -/
  | reset
  /-- `START n`: a decoder cycle that begins a window of `n` symbols (R134, R135). -/
  | start (count : Word)
  /-- `SYM m, s`: a decoder cycle in which a symbol is presented (R137). -/
  | sym (mark space : Word)
  /-- `NOP`: an idle decoder cycle (R132). -/
  | nop
  deriving DecidableEq, Repr

end Sys2Proof
end

