-- ==== Sys2Proof/WellFormed.lean ====
section
/-! DEFINITION. What is checked about a program before it runs.

An operation has no ill-formed operands: every count, mark and space is legal (R76, R81), and typed ports cannot carry a
wider value (R224). What the spec asks of the HOST can be broken: no symbol together with `start_i` (R216), and a `RESET`
before the first `START` (R213, R224). The machine runs words and programs that break these duties exactly as the
rules say; the checks name them. -/

namespace Sys2Proof

/-- Every operation is well-formed: no operand value is illegal or reserved (R76, R81). -/
def Instr.wellFormed : Instr → Bool
  | .classifyLead _ _ => true
  | .classifyBit _ _ => true
  | .reset => true
  | .start _ => true
  | .sym _ _ => true
  | .nop => true

/-- The host's duty on one operation word (R216): `start_i` and `sym_valid_i` are not 1 together, unless `rst_i` is 1
and beats both. -/
def PortWord.keepsStartDuty : PortWord → Bool
  | .ipc _ => true
  | .ifd ctrl _ _ _ => ctrl != 0b011#3

/-- The host's duty on a whole program (R213, R224): a `RESET` before the first `START`. Every other line may stand before
that `RESET`: classifier lines, whose rules hold from the moment the parameters are fixed, and decoder cycles that start
no window. -/
def programResetsBeforeStart : List PortWord → Bool
  | [] => true
  | .ipc _ :: rest => programResetsBeforeStart rest
  | .ifd ctrl _ _ _ :: rest => ctrl.getLsbD 2 || (!ctrl.getLsbD 1 && programResetsBeforeStart rest)

/-- A program that keeps both duties. -/
def programWellFormed (ws : List PortWord) : Bool :=
  programResetsBeforeStart ws && ws.all PortWord.keepsStartDuty

end Sys2Proof
end

