-- ==== Sys2Proof/Decode.lean ====
section
/-! DEFINITION. From operation words to operations and back (R70, R73, R74), and the byte container in which the pipeline
writes an operation word down.

No operation word is illegal (R81), so `decode` is total with no refusal. A container of bytes can be ill-formed, and
`parseBytes` rejects it by name. -/

namespace Sys2Proof

/-! ### Decoding an operation word -/

/-- `mark_i` of an IPC word: bits 63 to 32 (R70). -/
def ipcMark (w : BitVec 65) : Word := w.extractLsb' 32 32

/-- `space_i` of an IPC word: bits 31 to 0 (R70). -/
def ipcSpace (w : BitVec 65) : Word := w.extractLsb' 0 32

/-- An IPC word's operation is selected by `role`, bit 64, alone: 0 is lead, 1 is bit (R70, R71). -/
def decodeIpc (w : BitVec 65) : Instr :=
  if w.getLsbD 64 then .classifyBit (ipcMark w) (ipcSpace w)
  else .classifyLead (ipcMark w) (ipcSpace w)

/-- An IFD word's operation is selected by `ctrl` alone (R74): `RESET` beats `START`, `START` beats a presented symbol.
The buses the operation does not read are dropped here (R73). -/
def decodeIfd (ctrl : BitVec 3) (count mark space : Word) : Instr :=
  if ctrl.getLsbD 2 then .reset
  else if ctrl.getLsbD 1 then .start count
  else if ctrl.getLsbD 0 then .sym mark space
  else .nop

/-- The operation a word stands for. Every word stands for exactly one (R74, R81). -/
def decode : PortWord → Instr
  | .ipc w => decodeIpc w
  | .ifd ctrl count mark space => decodeIfd ctrl count mark space

/-! ### Encoding an operation -/

/-- An IPC word from its fields (R70). -/
def ipcWord (role : BitVec 1) (mark space : Word) : PortWord := .ipc (role ++ mark ++ space)

/-- The operation word of the spec's own syntax (R83): `sym_valid_i` is 1 only on `SYM`, `start_i` only on `START`, and a
bus the operation does not read carries 0 (DESIGN CHOICE, safe; log 11). -/
def encode : Instr → PortWord
  | .classifyLead mark space => ipcWord 0#1 mark space
  | .classifyBit mark space => ipcWord 1#1 mark space
  | .reset => .ifd 0b100#3 0#32 0#32 0#32
  | .start count => .ifd 0b010#3 count 0#32 0#32
  | .sym mark space => .ifd 0b001#3 0#32 mark space
  | .nop => .ifd 0b000#3 0#32 0#32 0#32

/-! ### The operation words as numbers and as bytes -/

/-- How many bits a word of the format has: `role`, `mark`, `space` (R70), or `ctrl` and three buses (R73). -/
def Format.bits : Format → Nat
  | .ipc => 65
  | .ifd => 99

/-- How many bytes hold those bits. -/
def Format.bytes : Format → Nat
  | .ipc => 9
  | .ifd => 13

/-- An operation word as one number, bit 0 the least significant. An IPC word is R70's. An IFD word is `ctrl` in bits 2
to 0, as the opcode table numbers them, then `count`, `mark`, `space` above it, a layout the spec does not give
(DESIGN CHOICE, safe; log 9). -/
def PortWord.bits : PortWord → Nat
  | .ipc w => w.toNat
  | .ifd ctrl count mark space => (space ++ mark ++ count ++ ctrl).toNat

/-- The operation word of a format that a number stands for. -/
def PortWord.ofBits : Format → Nat → PortWord
  | .ipc, n => .ipc (BitVec.ofNat 65 n)
  | .ifd, n =>
    .ifd (BitVec.ofNat 3 n) (BitVec.ofNat 32 (n / 2 ^ 3)) (BitVec.ofNat 32 (n / 2 ^ 35)) (BitVec.ofNat 32 (n / 2 ^ 67))

/-- A number as so many bytes, the least significant first (log 9). -/
def natToBytes : Nat → Nat → List Byte
  | 0, _ => []
  | k + 1, n => BitVec.ofNat 8 n :: natToBytes k (n / 256)

/-- The number a list of bytes stands for, the least significant first (log 9). -/
def bytesToNat : List Byte → Nat
  | [] => 0
  | b :: rest => b.toNat + 256 * bytesToNat rest

/-- Why a container of bytes is no operation word of a format. -/
inductive DecodeError
  /-- Not as many bytes as the format has. -/
  | wrongLength
  /-- A bit above the format's highest bit is set: no port carries it. -/
  | paddingSet
  deriving DecidableEq, Repr

/-- The operation word in a container of bytes, or the name of what is wrong with the container. -/
def parseBytes (fmt : Format) (bs : List Byte) : Except DecodeError PortWord :=
  if bs.length ≠ fmt.bytes then .error .wrongLength
  else if 2 ^ fmt.bits ≤ bytesToNat bs then .error .paddingSet
  else .ok (.ofBits fmt (bytesToNat bs))

/-- Decoding of bytes: total on any list, rejecting an ill-formed container by name. -/
def decodeBytes (fmt : Format) (bs : List Byte) : Except DecodeError Instr :=
  match parseBytes fmt bs with
  | .ok w => .ok (decode w)
  | .error e => .error e

/-- The bytes of an operation word. -/
def PortWord.toBytes (w : PortWord) : List Byte := natToBytes w.format.bytes w.bits

/-- The bytes of an operation's word. -/
def encodeBytes (i : Instr) : List Byte := (encode i).toBytes

/-! ### The opcode table -/

/-- One row of spec/opcode_table.json: the word's bits under `mask` equal `value`. -/
structure TableRow where
  mnemonic : String
  format : Format
  value : Nat
  mask : Nat
  deriving DecidableEq, Repr

/-- The opcode table's rows (R70, R74). -/
def opcodeTable : List TableRow :=
  [ ⟨"CLASSIFY.LEAD", .ipc, 0, 2 ^ 64⟩,
    ⟨"CLASSIFY.BIT", .ipc, 2 ^ 64, 2 ^ 64⟩,
    ⟨"RESET", .ifd, 0b100, 0b100⟩,
    ⟨"START", .ifd, 0b010, 0b110⟩,
    ⟨"SYM", .ifd, 0b001, 0b111⟩,
    ⟨"NOP", .ifd, 0b000, 0b111⟩ ]

/-- Whether a row of the table selects a word. -/
def TableRow.selects (r : TableRow) (w : PortWord) : Bool :=
  r.format == w.format && (w.bits &&& r.mask) == r.value

/-- The mnemonic of an operation, as the opcode table spells it. -/
def Instr.mnemonic : Instr → String
  | .classifyLead _ _ => "CLASSIFY.LEAD"
  | .classifyBit _ _ => "CLASSIFY.BIT"
  | .reset => "RESET"
  | .start _ => "START"
  | .sym _ _ => "SYM"
  | .nop => "NOP"

/-- The format of a word the opcode table gives so many bits in whole bytes: 65 bits are nine bytes, and only an IPC row
has them; every other width is an IFD row, whose operand buses the table gives no bits (DESIGN CHOICE, safe; log 10). -/
def tableFormat (nbits : Nat) : Format := if 65 ≤ nbits ∧ nbits ≤ 72 then .ipc else .ifd

/-- The operation word of an opcode-table row's word, laid out in the format's container. A number with a bit above the
format's highest is refused by name, also where that bit lies above the container itself, and a bit above `nbits` within
the format is read as that bit of the format. The spec is silent on both (DESIGN CHOICE, safe; log 10). -/
def tableWord (nbits w : Nat) : Except DecodeError PortWord :=
  if w < 256 ^ (tableFormat nbits).bytes then
    parseBytes (tableFormat nbits) (natToBytes (tableFormat nbits).bytes w)
  else .error .paddingSet

/-- The operation the decoder reads from an opcode-table row's word; none where the number is no word of its format
(DESIGN CHOICE, safe; log 10). -/
def decodeTableWord (nbits w : Nat) : Option Instr :=
  match tableWord nbits w with
  | .ok word => some (decode word)
  | .error _ => none

end Sys2Proof
end

