-- ==== Sys2Proof/Machine/State.lean ====
section
/-! DEFINITION. The state of the core as plain data: the decoder's registers (R24 to R34), the classifier's input ports
(R21), the elaboration parameters (R7, R8), and the host operations still to come (R83). -/

namespace Sys2Proof.Machine

/-! ### What the registers and ports hold -/

/-- The control state `st` (R24). The fourth value of its two bits is unreachable and left out, as R148 allows (log 7). -/
inductive St
  /-- 0: no window is being decoded. -/
  | idle
  /-- 1: waiting for symbol 0. -/
  | lead
  /-- 2: waiting for payload symbol `idx + 1`. -/
  | payload
  deriving DecidableEq, Repr

/-- The register `kind` (R25): which lead the window's count admits. -/
inductive Kind
  /-- 0 `K_REPEAT`: the count was 1. -/
  | kRepeat
  /-- 1 `K_NORMAL`: the count was 33. -/
  | kNormal
  deriving DecidableEq, Repr

/-- The classifier's second input, `role_i` (R71). -/
inductive Role
  /-- 0 -/
  | lead
  /-- 1 -/
  | bit
  deriving DecidableEq, Repr

/-- The classifications (R72). The reserved codes 5 to 7 are never produced (R81; log 7). -/
inductive PulseClass
  /-- 0 `UNRECOGNIZED` -/
  | unrecognized
  /-- 1 `LEAD_NORMAL` -/
  | leadNormal
  /-- 2 `LEAD_REPEAT` -/
  | leadRepeat
  /-- 3 `BIT0` -/
  | bit0
  /-- 4 `BIT1` -/
  | bit1
  deriving DecidableEq, Repr

/-- The tag of the decode result (R28, R78). -/
inductive Result
  /-- 0 `NONE`: no result is held. -/
  | none
  /-- 1 `COMMAND` -/
  | command
  /-- 2 `REPEAT` -/
  | repeated
  /-- 3 `INVALID` -/
  | invalid
  deriving DecidableEq, Repr

/-- The reason of an invalid result (R29, R79). The reserved codes 5 to 7 are never produced (R81; log 7). -/
inductive Reason
  /-- 0 `NONE`: the result is not `INVALID`. -/
  | none
  /-- 1 `WRONG_SYMBOL_COUNT` -/
  | wrongSymbolCount
  /-- 2 `BAD_LEAD_MARKER` -/
  | badLeadMarker
  /-- 3 `BAD_PAYLOAD_BIT` -/
  | badPayloadBit
  /-- 4 `COMPLEMENT_MISMATCH` -/
  | complementMismatch
  deriving DecidableEq, Repr

/-! ### The state -/

/-- The registers of `infrared_frame_decoder`, exactly those of R24 to R34 (R23). -/
structure Decoder where
  /-- Control state (R24). -/
  st : St
  /-- Which frame the count admits (R25). -/
  kind : Kind
  /-- Payload bits accepted so far (R26). -/
  idx : BitVec 6
  /-- Payload accumulator (R26). -/
  acc : Word
  /-- The result registers hold the result of the most recent window (R27). -/
  done : Bool
  /-- Tag of the decode result (R28). -/
  result : Result
  /-- Reason of an invalid result (R29). -/
  reason : Reason
  /-- Window index of the first payload symbol that failed (R30). -/
  badIndex : BitVec 6
  /-- Command byte of a `COMMAND` result (R31). -/
  cmd : Byte
  /-- Address byte of a `COMMAND` result (R32). -/
  addr : Byte
  /-- The received payload word (R34). -/
  raw : Word
  deriving DecidableEq, Repr

/-- The input ports of the standalone `infrared_pulse_classifier` (R21), as the host last drove them. Its output
`class_o` is a function of them (R20) and is not stored. -/
structure ClassifierPorts where
  mark : Word
  space : Word
  role : Role
  deriving DecidableEq, Repr

/-- The whole machine. -/
structure State where
  /-- The elaboration parameters (R7, R8). No step writes them (R219; log 3). -/
  params : Params
  /-- The decoder's registers. -/
  dec : Decoder
  /-- The standalone classifier's input ports. -/
  cls : ClassifierPorts
  /-- The host operations not yet performed, oldest first (R83). The model's own field (log 1). -/
  pending : List PortWord
  deriving DecidableEq, Repr

/-! ### Why a step can stop -/

/-- The core raises no trap and no fault (R180), and no input is illegal (R81), so there is nothing in this type. -/
inductive Fault
  deriving DecidableEq, Repr

/-- Why an operation is refused. -/
inductive Refusal
  /-- Raised by an arm of `exec` for an operation that has no meaning in the model yet. Safe: the model stops where the
  hardware goes on. No arm of this model raises it. -/
  | notModelled (mnemonic : String)
  deriving DecidableEq, Repr

/-! ### Reset -/

/-- The decoder's registers after a reset: the table of R36. -/
def Decoder.resetValues : Decoder where
  st := .idle
  kind := .kRepeat
  idx := 0#6
  acc := 0#32
  done := false
  result := .none
  reason := .none
  badIndex := 0#6
  cmd := 0#8
  addr := 0#8
  raw := 0#32

/-- The classifier's input ports before the host has driven them. The spec gives no value (DESIGN CHOICE: zeros and role
lead, unsafe; log 5). -/
def ClassifierPorts.initial : ClassifierPorts where
  mark := 0#32
  space := 0#32
  role := .lead

/-- The machine right after a reset (R36, R212), with no host operation placed (log 1). -/
def State.reset : State where
  params := Config.params
  dec := Decoder.resetValues
  cls := ClassifierPorts.initial
  pending := []

end Sys2Proof.Machine
end

