-- ==== Sys2Proof/Machine/Operands.lean ====
section
/-! DEFINITION. The operand computations: the tolerance test on a duration (R101, R102), the count test (R76, R135), the
fields of the payload word (R53, R54) and the complement check (R143). -/

namespace Sys2Proof.Machine

/-! ### Durations -/

/-- The distance of an observed duration from a reference, exact and never wrapping (R101, R102). -/
def absdiff (o r : Word) : Nat :=
  if r.toNat ≤ o.toNat then o.toNat - r.toNat else r.toNat - o.toNat

/-- The tolerance test, inclusive at both ends (R101). -/
def within (p : Params) (o r : Word) : Bool := absdiff o r ≤ p.margin.toNat

/-! ### The symbol count -/

/-- Which frame a count admits (R25, R135): 1 a repeat frame, 33 a normal frame, any other none. -/
def kindOfCount (count : Word) : Option Kind :=
  if count = 1#32 then some .kRepeat else if count = 33#32 then some .kNormal else Option.none

/-! ### The payload word -/

/-- The payload bit of a classified symbol (R53): 1 for `BIT1`, 0 otherwise. -/
def bitVal (c : PulseClass) : Bool := c == .bit1

/-- A payload bit placed at bit `b` of an otherwise zero word: `zext_32(bit) << b` (R53, R141). -/
def placedBit (bit : Bool) (b : Nat) : Word := (BitVec.ofBool bit).setWidth 32 <<< b

/-- The address byte, `w[7:0]` (R54). -/
def addressOf (w : Word) : Byte := w.extractLsb' 0 8

/-- The address-complement byte, `w[15:8]` (R54). -/
def addressComplementOf (w : Word) : Byte := w.extractLsb' 8 8

/-- The command byte, `w[23:16]` (R54). -/
def commandOf (w : Word) : Byte := w.extractLsb' 16 8

/-- The command-complement byte, `w[31:24]` (R54). -/
def commandComplementOf (w : Word) : Byte := w.extractLsb' 24 8

/-- The complement check on a payload word (R143). -/
def complementOk (w : Word) : Bool :=
  addressComplementOf w == ~~~addressOf w && commandComplementOf w == ~~~commandOf w

/-- The payload word of a frame that carries an address and a command (R84, `FRAME`). -/
def frameWord (a c : Byte) : Word := (~~~c) ++ c ++ (~~~a) ++ a

end Sys2Proof.Machine
end

