-- ==== Sys2Proof/Machine/Ops.lean ====
section
/-! DEFINITION. The named operations over the state, and over the decoder's registers, that the meanings share: the
completion primitive (R133), which is this core's form of taking an exception (R180, R187), clearing (R134), starting a
window (R135), accepting a payload bit (R141, R142). -/

namespace Sys2Proof.Machine

/-! ### The decoder's registers -/

/-- The completion primitive `finish(res, rsn)` (R133). A decode failure is `finish .invalid reason`: there is no vector,
no mode and no saved program state (R180, R187). -/
def Decoder.finish (d : Decoder) (res : Result) (rsn : Reason) : Decoder :=
  { d with st := .idle, done := true, result := res, reason := rsn }

/-- What every `START` clears (R134). -/
def Decoder.clear (d : Decoder) : Decoder :=
  { d with idx := 0#6, acc := 0#32, badIndex := 0#6, cmd := 0#8, addr := 0#8, raw := 0#32 }

/-- Waiting for symbol 0 of a window of a legal count (R135). -/
def Decoder.awaitLead (d : Decoder) (k : Kind) : Decoder :=
  { d with st := .lead, kind := k, done := false, result := .none, reason := .none }

/-- Put one payload bit into the accumulator at position `idx`, and count it (R141, R142). An `idx` above 31 is reached by
no run. R153's equation is followed there: the bit is shifted out and `idx` counts on in its six bits (DEDUCED, safe;
log 8). -/
def Decoder.addBit (d : Decoder) (bit : Bool) : Decoder :=
  { d with acc := d.acc ||| placedBit bit d.idx.toNat, idx := d.idx + 1#6 }

/-- Every payload bit is in: keep the word and check it (R142). -/
def Decoder.validate (d : Decoder) : Decoder :=
  if complementOk d.acc then
    { d with raw := d.acc, cmd := commandOf d.acc, addr := addressOf d.acc }.finish .command .none
  else
    { d with raw := d.acc }.finish .invalid .complementMismatch

/-- Accept one payload bit (R141), and validate at the same edge if it is the 32nd (R142). -/
def Decoder.acceptBit (d : Decoder) (bit : Bool) : Decoder :=
  if d.idx = 31#6 then (d.addBit bit).validate else d.addBit bit

/-- A payload symbol that is no bit ends the window with its window index (R140). -/
def Decoder.rejectBit (d : Decoder) : Decoder :=
  { d with badIndex := d.idx + 1#6 }.finish .invalid .badPayloadBit

/-! ### The whole state -/

/-- Replace the decoder's registers. -/
def State.setDec (s : State) (d : Decoder) : State := { s with dec := d }

/-- Drive the standalone classifier's input ports for one evaluation (R21, R70). `class_o` follows them (R20, R104). -/
def State.driveClassifier (s : State) (mark space : Word) (role : Role) : State :=
  { s with cls := { mark := mark, space := space, role := role } }

/-- Replace the host operations still to come. -/
def State.setPending (s : State) (ws : List PortWord) : State := { s with pending := ws }

end Sys2Proof.Machine
end

