-- ==== Sys2Proof/Machine/Classifier.lean ====
section
/-! DEFINITION. `infrared_pulse_classifier`: its function (R104), its output port, and the meanings of `CLASSIFY.LEAD`
(R105) and `CLASSIFY.BIT` (R106). -/

namespace Sys2Proof.Machine

/-- Classify a symbol as a lead marker (R105). `LEAD_NORMAL` is tested first (R103). -/
def classifyAsLead (p : Params) (mark space : Word) : PulseClass :=
  if within p mark p.tLeadMark && within p space p.tLeadSpaceNormal then .leadNormal
  else if within p mark p.tLeadMark && within p space p.tLeadSpaceRepeat then .leadRepeat
  else .unrecognized

/-- Classify a symbol as a payload bit (R106). The mark is tested first, then `BIT0` before `BIT1` (R103). -/
def classifyAsBit (p : Params) (mark space : Word) : PulseClass :=
  if !within p mark p.tBitMark then .unrecognized
  else if within p space p.tBitSpace0 then .bit0
  else if within p space p.tBitSpace1 then .bit1
  else .unrecognized

/-- The classifier function (R104). -/
def classify (p : Params) (mark space : Word) : Role → PulseClass
  | .lead => classifyAsLead p mark space
  | .bit => classifyAsBit p mark space

/-- The output port `class_o` of the standalone classifier: combinational in its input ports and the parameters (R20,
R100, R104). -/
def State.classO (s : State) : PulseClass := classify s.params s.cls.mark s.cls.space s.cls.role

/-- A configuration whose space windows do not overlap (R108). It is recommended, never required (R213). -/
def separated (p : Params) : Bool :=
  2 * p.margin.toNat < absdiff p.tLeadSpaceNormal p.tLeadSpaceRepeat
    && 2 * p.margin.toNat < absdiff p.tBitSpace1 p.tBitSpace0

/-- `CLASSIFY.LEAD` (R105): the host drives the operands with role lead, and `class_o` shows `classifyAsLead` of them. No
decoder register changes. -/
def execClassifyLead (mark space : Word) (s : State) : Host.Outcome State Fault Refusal :=
  .next (s.driveClassifier mark space .lead)

/-- `CLASSIFY.BIT` (R106): the host drives the operands with role bit, and `class_o` shows `classifyAsBit` of them. No
decoder register changes. -/
def execClassifyBit (mark space : Word) (s : State) : Host.Outcome State Fault Refusal :=
  .next (s.driveClassifier mark space .bit)

end Sys2Proof.Machine
end

