-- ==== Sys2Proof/Machine/FrameDecoder.lean ====
section
/-! DEFINITION. `infrared_frame_decoder`: the meanings of `NOP` (R132), `START` (R134, R135), `SYM` (R137 to R142) and
`RESET` (R210). Every one is one rising edge of `clk_i` (R131). -/

namespace Sys2Proof.Machine

/-! ### START -/

/-- Begin a window (R134, R135), in every state of the decoder (R136). The count is checked before any symbol is seen
(C1). -/
def Decoder.start (d : Decoder) (count : Word) : Decoder :=
  match kindOfCount count with
  | some k => d.clear.awaitLead k
  | none => { d.clear with kind := .kRepeat }.finish .invalid .wrongSymbolCount

/-! ### SYM -/

/-- Symbol 0 of a one-symbol window (R138): a repeat lead, or a bad lead. -/
def Decoder.symLeadRepeat (d : Decoder) (p : Params) (mark space : Word) : Decoder :=
  if classify p mark space .lead = .leadRepeat then d.finish .repeated .none
  else d.finish .invalid .badLeadMarker

/-- Symbol 0 of a 33-symbol window (R139): a normal lead, or a bad lead. -/
def Decoder.symLeadNormal (d : Decoder) (p : Params) (mark space : Word) : Decoder :=
  if classify p mark space .lead = .leadNormal then { d with st := .payload }
  else d.finish .invalid .badLeadMarker

/-- A payload symbol (R140, R141, R142). -/
def Decoder.symPayload (d : Decoder) (p : Params) (mark space : Word) : Decoder :=
  if classify p mark space .bit = .unrecognized then d.rejectBit
  else d.acceptBit (bitVal (classify p mark space .bit))

/-- A presented symbol (R137). While `IDLE` it is not taken and no register changes (R51, R131). The decoder's own
classifier has role lead in `LEAD` and role bit in `PAYLOAD` (R109). -/
def Decoder.sym (d : Decoder) (p : Params) (mark space : Word) : Decoder :=
  match d.st with
  | .idle => d
  | .lead =>
    match d.kind with
    | .kRepeat => d.symLeadRepeat p mark space
    | .kNormal => d.symLeadNormal p mark space
  | .payload => d.symPayload p mark space

/-! ### The meanings -/

/-- `RESET` (R210): every register takes its value from R36's table. -/
def execReset (s : State) : Host.Outcome State Fault Refusal :=
  .next (s.setDec Decoder.resetValues)

/-- `START n` (R134, R135, R136). -/
def execStart (count : Word) (s : State) : Host.Outcome State Fault Refusal :=
  .next (s.setDec (s.dec.start count))

/-- `SYM m, s` (R137). -/
def execSym (mark space : Word) (s : State) : Host.Outcome State Fault Refusal :=
  .next (s.setDec (s.dec.sym s.params mark space))

/-- `NOP` (R132): no register changes. -/
def execNop (s : State) : Host.Outcome State Fault Refusal :=
  .next s

end Sys2Proof.Machine
end

