-- ==== Sys2Proof/Machine/Dispatch.lean ====
section
/-! DEFINITION. One arm per operation of the opcode table. -/

namespace Sys2Proof.Machine

def exec (i : Instr) (s : State) : Host.Outcome State Fault Refusal :=
  match i with
  | .classifyLead mark space => Sys2Proof.Machine.execClassifyLead mark space s
  | .classifyBit mark space => Sys2Proof.Machine.execClassifyBit mark space s
  | .reset => Sys2Proof.Machine.execReset s
  | .start count => Sys2Proof.Machine.execStart count s
  | .sym mark space => Sys2Proof.Machine.execSym mark space s
  | .nop => Sys2Proof.Machine.execNop s

end Sys2Proof.Machine
end

