-- ==== Sys2Proof/Machine/Fetch.lean ====
section
/-! DEFINITION. Where the next operation comes from. The core fetches nothing (R61): its program is the sequence of host
operations on its ports (R83), which the state holds oldest first (log 1). -/

namespace Sys2Proof.Machine

/-- The operation word driven next, and the state with that word taken off. When the host has nothing left to send it
drives no request: `ctrl = 000`, a `NOP` (R83, R132, R224; DEDUCED, log 2). -/
def State.fetch (s : State) : PortWord × State :=
  match s.pending with
  | [] => (encode .nop, s)
  | w :: rest => (w, s.setPending rest)

/-- The state with one more operation word in front of those the host has still to send. -/
def State.place (s : State) (w : PortWord) : State := s.setPending (w :: s.pending)

end Sys2Proof.Machine
end

