-- ==== Sys2Proof/Machine/Step.lean ====
section
/-! DEFINITION. One step: the host's next operation, performed. A decoder operation is one rising edge of `clk_i`; a
classifier evaluation takes no edge and does not touch the decoder (R83). -/

namespace Sys2Proof.Machine

/-- One host operation (R83, R131). -/
def step (s : State) : Host.Outcome State Fault Refusal :=
  exec (decode s.fetch.1) s.fetch.2

/-- `s` with an opcode-table row's word as the host's next operation. A number that is no operation word of its format
places nothing. -/
def State.withFetchWord (s : State) (nbits w : Nat) : State :=
  match tableWord nbits w with
  | .ok word => s.place word
  | .error _ => s

end Sys2Proof.Machine
end

