-- ==== Sys2Proof/Machine/HostProgram.lean ====
section
/-! DEFINITION. The lines of a host program (R83) and the pseudo-operations they expand (R84). A program is written for
the parameters the core was elaborated with. -/

namespace Sys2Proof.Machine

/-- One line of a host program: an operation (R83) or a pseudo-operation (R84). -/
inductive Line
  | op (i : Instr)
  | leadN
  | leadR
  | bit0
  | bit1
  | payload (w : Word)
  | frameW (w : Word)
  | frame (a c : Byte)
  | rFrame
  | wait (k : Nat)
  deriving DecidableEq, Repr

/-- `LEADN` (R84). -/
def leadNormalSym (p : Params) : Instr := .sym p.tLeadMark p.tLeadSpaceNormal

/-- `LEADR` (R84). -/
def leadRepeatSym (p : Params) : Instr := .sym p.tLeadMark p.tLeadSpaceRepeat

/-- `BIT0` or `BIT1` (R84). -/
def bitSym (p : Params) (bit : Bool) : Instr := .sym p.tBitMark (if bit then p.tBitSpace1 else p.tBitSpace0)

/-- `PAYLOAD w` (R84): 32 lines, bit 0 first. -/
def payloadSyms (p : Params) (w : Word) : List Instr := (List.range 32).map fun b => bitSym p (w.getLsbD b)

/-- `FRAMEW w` (R84). -/
def frameWOps (p : Params) (w : Word) : List Instr := .start 33#32 :: leadNormalSym p :: payloadSyms p w

/-- The operations a line stands for (R84). -/
def Line.expand (p : Params) : Line → List Instr
  | .op i => [i]
  | .leadN => [leadNormalSym p]
  | .leadR => [leadRepeatSym p]
  | .bit0 => [bitSym p false]
  | .bit1 => [bitSym p true]
  | .payload w => payloadSyms p w
  | .frameW w => frameWOps p w
  | .frame a c => frameWOps p (frameWord a c)
  | .rFrame => [.start 1#32, leadRepeatSym p]
  | .wait k => List.replicate k .nop

/-- The operation words of a program (R70, R73, R84). -/
def assemble (p : Params) (lines : List Line) : List PortWord := (lines.flatMap (Line.expand p)).map encode

end Sys2Proof.Machine
end

