-- ==== Sys2Proof/Machine/Assembler.lean ====
section
/-! DEFINITION. The textual syntax of host programs (R83, R84): one operation a line, operands separated by commas,
numbers decimal or hexadecimal with `0x`, a comment from `;` to the end of the line. Text is a list of characters.

The spec gives no rule for letter case or blanks: mnemonics are read in capitals only, blanks and tabs separate words,
hexadecimal digits are read in either case, and an empty line is no operation (DESIGN CHOICE, safe; log 13). -/

namespace Sys2Proof.Machine

/-- Why a line of text is no operation. -/
inductive AsmError
  /-- No operation or pseudo-operation has this name with this many operands. -/
  | unknownOperation
  /-- An operand is no number. -/
  | badNumber
  /-- A number is wider than its operand. -/
  | outOfRange
  deriving DecidableEq, Repr

/-- The text before a comment (R83). -/
def stripComment (cs : List Char) : List Char := cs.takeWhile (· != ';')

/-- Words and commas, blanks dropped: `word` holds the characters of the word being read, last first. -/
def tokens : List Char → List Char → List (List Char)
  | [], word => if word.isEmpty then [] else [word.reverse]
  | c :: rest, word =>
    let done := if word.isEmpty then [] else [word.reverse]
    if c == ' ' || c == '\t' then done ++ tokens rest []
    else if c == ',' then done ++ [','] :: tokens rest []
    else tokens rest (c :: word)

/-- The value of a digit in a base of at most 16. -/
def digitValue (base : Nat) (c : Char) : Option Nat :=
  let n := c.toNat
  let v := if 48 ≤ n ∧ n ≤ 57 then some (n - 48)
    else if 65 ≤ n ∧ n ≤ 70 then some (n - 55)
    else if 97 ≤ n ∧ n ≤ 102 then some (n - 87)
    else Option.none
  v.filter (· < base)

/-- The number a run of digits stands for, the most significant first, after a number already read. -/
def digitsValue (base : Nat) : List Char → Nat → Option Nat
  | [], n => some n
  | c :: rest, n => (digitValue base c).bind fun d => digitsValue base rest (n * base + d)

/-- A number: decimal, or hexadecimal with `0x` (R83). -/
def parseNumber : List Char → Option Nat
  | [] => Option.none
  | '0' :: 'x' :: [] => Option.none
  | '0' :: 'x' :: c :: rest => digitsValue 16 (c :: rest) 0
  | c :: rest => digitsValue 10 (c :: rest) 0

/-- A number operand of a given width. -/
def parseOperand (width : Nat) (t : List Char) : Except AsmError (BitVec width) :=
  match parseNumber t with
  | Option.none => .error .badNumber
  | some n => if n < 2 ^ width then .ok (BitVec.ofNat width n) else .error .outOfRange

/-- An operation of one operand. -/
def parseOne (width : Nat) (f : BitVec width → Line) (a : List Char) : Except AsmError Line :=
  (parseOperand width a).map f

/-- An operation of two operands. -/
def parseTwo (width : Nat) (f : BitVec width → BitVec width → Line) (a b : List Char) : Except AsmError Line :=
  (parseOperand width a).bind fun x => (parseOperand width b).map (f x)

/-- A line's words as an operation, by the tables of R83 and R84. -/
def parseWords : List (List Char) → Except AsmError Line
  | [['R', 'E', 'S', 'E', 'T']] => .ok (.op .reset)
  | [['N', 'O', 'P']] => .ok (.op .nop)
  | [['L', 'E', 'A', 'D', 'N']] => .ok .leadN
  | [['L', 'E', 'A', 'D', 'R']] => .ok .leadR
  | [['B', 'I', 'T', '0']] => .ok .bit0
  | [['B', 'I', 'T', '1']] => .ok .bit1
  | [['R', 'F', 'R', 'A', 'M', 'E']] => .ok .rFrame
  | [['S', 'T', 'A', 'R', 'T'], n] => parseOne 32 (fun n => .op (.start n)) n
  | [['P', 'A', 'Y', 'L', 'O', 'A', 'D'], w] => parseOne 32 .payload w
  | [['F', 'R', 'A', 'M', 'E', 'W'], w] => parseOne 32 .frameW w
  | [['W', 'A', 'I', 'T'], k] =>
    match parseNumber k with
    | Option.none => .error .badNumber
    | some k => .ok (.wait k)
  | [['S', 'Y', 'M'], m, [','], s] => parseTwo 32 (fun m s => .op (.sym m s)) m s
  | [['C', 'L', 'A', 'S', 'S', 'I', 'F', 'Y', '.', 'L', 'E', 'A', 'D'], m, [','], s] =>
    parseTwo 32 (fun m s => .op (.classifyLead m s)) m s
  | [['C', 'L', 'A', 'S', 'S', 'I', 'F', 'Y', '.', 'B', 'I', 'T'], m, [','], s] =>
    parseTwo 32 (fun m s => .op (.classifyBit m s)) m s
  | [['F', 'R', 'A', 'M', 'E'], a, [','], c] => parseTwo 8 .frame a c
  | _ => .error .unknownOperation

/-- One line of text: an operation, nothing (an empty line or only a comment), or the name of what is wrong. -/
def parseLine (cs : List Char) : Except AsmError (Option Line) :=
  match tokens (stripComment cs) [] with
  | [] => .ok Option.none
  | ws => (parseWords ws).map some

/-- The lines of a text. -/
def parseProgram : List (List Char) → Except AsmError (List Line)
  | [] => .ok []
  | cs :: rest => (parseLine cs).bind fun l => (parseProgram rest).map (l.toList ++ ·)

end Sys2Proof.Machine
end

