-- ==== Sys2Proof/Machine/Flags.lean ====
section
/-! DEFINITION. The output ports and their codes (R21, R22, R33, R71, R72, R77 to R80), the transfer condition (R51) and
the index of the next symbol (R35). The core has no flags but `done` and the two status outputs (R38). -/

namespace Sys2Proof.Machine

/-! ### Codes -/

/-- The code of `st` (R24). -/
def St.code : St → BitVec 2
  | .idle => 0
  | .lead => 1
  | .payload => 2

/-- The code of `kind` (R25). -/
def Kind.code : Kind → BitVec 1
  | .kRepeat => 0
  | .kNormal => 1

/-- The code of `role_i` (R71). -/
def Role.code : Role → BitVec 1
  | .lead => 0
  | .bit => 1

/-- The code on `class_o` (R72). -/
def PulseClass.code : PulseClass → BitVec 3
  | .unrecognized => 0
  | .leadNormal => 1
  | .leadRepeat => 2
  | .bit0 => 3
  | .bit1 => 4

/-- The code on `result_o` (R78). -/
def Result.code : Result → BitVec 2
  | .none => 0
  | .command => 1
  | .repeated => 2
  | .invalid => 3

/-- The code on `reason_o` (R79). -/
def Reason.code : Reason → BitVec 3
  | .none => 0
  | .wrongSymbolCount => 1
  | .badLeadMarker => 2
  | .badPayloadBit => 3
  | .complementMismatch => 4

/-! ### Status outputs and the transfer -/

/-- `busy_o` (R33). -/
def Decoder.busyO (d : Decoder) : Bool := d.st != .idle

/-- `sym_ready_o` (R33). -/
def Decoder.symReadyO (d : Decoder) : Bool := d.st != .idle

/-- Whether a cycle that drives this word is a transfer (R51): `sym_valid_i & sym_ready_o & ~start_i & ~rst_i`. A
classifier evaluation is no decoder cycle. -/
def Decoder.transfer (d : Decoder) : PortWord → Bool
  | .ipc _ => false
  | .ifd ctrl _ _ _ => ctrl.getLsbD 0 && d.symReadyO && !ctrl.getLsbD 1 && !ctrl.getLsbD 2

/-- The window index of the next symbol the decoder will accept (R35). -/
def Decoder.nextIndex (d : Decoder) : Option Nat :=
  match d.st with
  | .lead => some 0
  | .payload => some (d.idx.toNat + 1)
  | .idle => none

/-! ### The output ports -/

/-- Every output port of the two blocks, in its width (R21, R22). -/
structure Outputs where
  classO : BitVec 3
  symReadyO : BitVec 1
  busyO : BitVec 1
  doneO : BitVec 1
  resultO : BitVec 2
  reasonO : BitVec 3
  badIndexO : BitVec 6
  cmdO : Byte
  addrO : Byte
  rawO : Word
  deriving DecidableEq, Repr

/-- What the output ports show in the cycle after the state was reached (R22, R77, R222). Reading them changes nothing
(R58). -/
def State.outputs (s : State) : Outputs where
  classO := s.classO.code
  symReadyO := BitVec.ofBool s.dec.symReadyO
  busyO := BitVec.ofBool s.dec.busyO
  doneO := BitVec.ofBool s.dec.done
  resultO := s.dec.result.code
  reasonO := s.dec.reason.code
  badIndexO := s.dec.badIndex
  cmdO := s.dec.cmd
  addrO := s.dec.addr
  rawO := s.dec.raw

end Sys2Proof.Machine
end

