-- ==== Sys2Proof/Machine/Reference.lean ====
section
/-! DEFINITION. The spec's two restatements of the decoder, transcribed from their own rules and not from the meanings:
the reference function `decode(n, s)` (R150), with how many symbols it takes (R147), and the step function on registers
and inputs (R153). Statements relate them to the machine (R151). -/

namespace Sys2Proof.Machine

/-! ### The reference function (R150) -/

/-- An edge-duration symbol (R75). -/
structure PulseSymbol where
  mark : Word
  space : Word
  deriving DecidableEq, Repr

/-- What a decode returns: `(result, reason, bad_index, cmd, addr, raw)` (R150). -/
structure Decoded where
  result : Result
  reason : Reason
  badIndex : BitVec 6
  cmd : Byte
  addr : Byte
  raw : Word
  deriving DecidableEq, Repr

/-- The result registers as a decode result. -/
def Decoder.decoded (d : Decoder) : Decoded where
  result := d.result
  reason := d.reason
  badIndex := d.badIndex
  cmd := d.cmd
  addr := d.addr
  raw := d.raw

/-- An invalid result with nothing recorded. -/
def Decoded.invalid (rsn : Reason) : Decoded := ⟨.invalid, rsn, 0#6, 0#8, 0#8, 0#32⟩

/-- The class of window symbol `k` under a role. -/
def classAt (p : Params) (s : Nat → PulseSymbol) (k : Nat) (role : Role) : PulseClass := classify p (s k).mark (s k).space role

/-- The verdict on a whole payload word (R150, last two lines). -/
def decodedWord (w : Word) : Decoded :=
  if complementOk w then ⟨.command, .none, 0#6, commandOf w, addressOf w, w⟩
  else ⟨.invalid, .complementMismatch, 0#6, 0#8, 0#8, w⟩

/-- The loop of R150 over payload symbols `j`, `j + 1`, ..., of which `fuel` are left, with the word so far. -/
def decodePayload (p : Params) (s : Nat → PulseSymbol) : Nat → Nat → Word → Decoded
  | 0, _, w => decodedWord w
  | fuel + 1, j, w =>
    match classAt p s j .bit with
    | .unrecognized => ⟨.invalid, .badPayloadBit, BitVec.ofNat 6 j, 0#8, 0#8, 0#32⟩
    | .bit1 => decodePayload p s fuel (j + 1) (w ||| 1#32 <<< (j - 1))
    | _ => decodePayload p s fuel (j + 1) w

/-- The reference function `decode(n, s)` (R150). -/
def decodeWindow (p : Params) (n : Word) (s : Nat → PulseSymbol) : Decoded :=
  if n ≠ 1#32 ∧ n ≠ 33#32 then Decoded.invalid .wrongSymbolCount
  else if n = 1#32 then
    if classAt p s 0 .lead = .leadRepeat then ⟨.repeated, .none, 0#6, 0#8, 0#8, 0#32⟩ else Decoded.invalid .badLeadMarker
  else if classAt p s 0 .lead ≠ .leadNormal then Decoded.invalid .badLeadMarker
  else decodePayload p s 32 1 0#32

/-- The window index after the last payload symbol taken, from symbol `j` on with `fuel` left (R147). -/
def payloadTaken (p : Params) (s : Nat → PulseSymbol) : Nat → Nat → Nat
  | 0, j => j
  | fuel + 1, j => if classAt p s j .bit = .unrecognized then j + 1 else payloadTaken p s fuel (j + 1)

/-- How many symbols of a window the decoder takes (R147). -/
def symbolsTaken (p : Params) (n : Word) (s : Nat → PulseSymbol) : Nat :=
  if n = 1#32 then 1
  else if n = 33#32 then if classAt p s 0 .lead = .leadNormal then payloadTaken p s 32 1 else 1
  else 0

/-! ### The step function on registers and inputs (R153) -/

/-- The decoder's input ports in one cycle (R22). -/
structure CycleInputs where
  rst : Bool
  start : Bool
  symValid : Bool
  count : Word
  mark : Word
  space : Word
  deriving DecidableEq, Repr

/-- The inputs an IFD word drives (R73). -/
def CycleInputs.ofPorts (ctrl : BitVec 3) (count mark space : Word) : CycleInputs :=
  ⟨ctrl.getLsbD 2, ctrl.getLsbD 1, ctrl.getLsbD 0, count, mark, space⟩

/-- `FIN(res, rsn)` of R153. -/
def referenceFin (r : Decoder) (res : Result) (rsn : Reason) : Decoder :=
  { r with st := .idle, done := true, result := res, reason := rsn }

/-- `step(R, in)` of R153, branch for branch. -/
def referenceStep (p : Params) (r : Decoder) (i : CycleInputs) : Decoder :=
  if i.rst then Decoder.resetValues
  else if i.start then
    let r' := { r with idx := 0#6, acc := 0#32, badIndex := 0#6, cmd := 0#8, addr := 0#8, raw := 0#32 }
    if i.count = 1#32 ∨ i.count = 33#32 then
      { r' with st := .lead, kind := if i.count = 33#32 then .kNormal else .kRepeat, done := false,
                result := .none, reason := .none }
    else
      { r' with kind := .kRepeat, st := .idle, done := true, result := .invalid, reason := .wrongSymbolCount }
  else if i.symValid ∧ r.st = .lead then
    let c := classify p i.mark i.space .lead
    if r.kind = .kRepeat ∧ c = .leadRepeat then referenceFin r .repeated .none
    else if r.kind = .kNormal ∧ c = .leadNormal then { r with st := .payload }
    else referenceFin r .invalid .badLeadMarker
  else if i.symValid ∧ r.st = .payload then
    let c := classify p i.mark i.space .bit
    if c = .unrecognized then { referenceFin r .invalid .badPayloadBit with badIndex := r.idx + 1#6 }
    else
      let w := r.acc ||| (if c = .bit1 then 1#32 else 0#32) <<< r.idx.toNat
      let r' := { r with acc := w, idx := r.idx + 1#6 }
      if r.idx = 31#6 then
        let r'' := { r' with raw := w }
        if complementOk w then
          { referenceFin r'' .command .none with cmd := w.extractLsb' 16 8, addr := w.extractLsb' 0 8 }
        else referenceFin r'' .invalid .complementMismatch
      else r'
  else r

end Sys2Proof.Machine
end

