-- ==== Sys2Proof/Safety.lean ====
section
/-! DEFINITION. The terms claims use: what holds of the decoder's registers after a reset and after every later step
(R26 to R34, R149), runs of a host program, and what a host sends in one window (R151). -/

namespace Sys2Proof

open Machine

/-! ### The registers in every state a reset leads to -/

/-- The result registers hold nothing (R78 code 0, R215). -/
def Machine.Decoder.HoldsNothing (d : Decoder) : Prop :=
  d.done = false ∧ d.result = .none ∧ d.reason = .none ∧ d.badIndex = 0#6 ∧ d.cmd = 0#8 ∧ d.addr = 0#8 ∧ d.raw = 0#32

/-- The result registers hold one row of the table of R149, and what the payload registers then say: the word of a
`COMMAND` or a `COMPLEMENT_MISMATCH` is the accumulator with all 32 bits in (R142), and the index of a `BAD_PAYLOAD_BIT`
is the one after the bits that are in (R140). -/
def Machine.Decoder.HoldsResult (d : Decoder) : Prop :=
  d.done = true ∧
  match d.result, d.reason with
  | .command, .none =>
    complementOk d.raw = true ∧ d.badIndex = 0#6 ∧ d.cmd = d.raw.extractLsb' 16 8 ∧ d.addr = d.raw.extractLsb' 0 8 ∧
      d.raw = d.acc ∧ d.idx = 32#6
  | .repeated, .none => d.badIndex = 0#6 ∧ d.cmd = 0#8 ∧ d.addr = 0#8 ∧ d.raw = 0#32
  | .invalid, .wrongSymbolCount => d.badIndex = 0#6 ∧ d.cmd = 0#8 ∧ d.addr = 0#8 ∧ d.raw = 0#32
  | .invalid, .badLeadMarker => d.badIndex = 0#6 ∧ d.cmd = 0#8 ∧ d.addr = 0#8 ∧ d.raw = 0#32
  | .invalid, .badPayloadBit =>
    d.badIndex.toNat = d.idx.toNat + 1 ∧ d.badIndex.toNat ≤ 32 ∧ d.cmd = 0#8 ∧ d.addr = 0#8 ∧ d.raw = 0#32
  | .invalid, .complementMismatch =>
    complementOk d.raw = false ∧ d.badIndex = 0#6 ∧ d.cmd = 0#8 ∧ d.addr = 0#8 ∧ d.raw = d.acc ∧ d.idx = 32#6
  | _, _ => False

/-- What the registers satisfy from the first reset on. While a window is decoded nothing is held (R215). In `LEAD` no
payload bit is in, and in `PAYLOAD` the window is a normal frame with fewer than 32 bits in (R26, R139). While `IDLE`
either no window has run since the reset or the last window's result is held (R27, R149). The accumulator is 0 from bit
`idx` up (R26). -/
def Machine.Decoder.Inv (d : Decoder) : Prop :=
  d.idx.toNat ≤ 32 ∧ (∀ b : Nat, d.idx.toNat ≤ b → d.acc.getLsbD b = false) ∧
  match d.st with
  | .idle => d.HoldsResult ∨ d.HoldsNothing
  | .lead => d.HoldsNothing ∧ d.idx = 0#6
  | .payload => d.HoldsNothing ∧ d.kind = .kNormal ∧ d.idx.toNat ≤ 31

/-- The invariant of the whole machine. -/
def Machine.State.Inv (s : State) : Prop := s.dec.Inv

/-! ### Runs of a host program -/

/-- The run of a list of host operation words from a state: one step for each word. -/
def runWords (ws : List PortWord) (s : State) : Host.Outcome State Fault Refusal :=
  Host.Core.run Sys2Proof.core ws.length (s.setPending ws)

/-- The words that neither reset nor start (R151): the rest of a window, with any classifier evaluations and idle cycles
between its symbols. -/
def isQuiet : PortWord → Bool
  | .ipc _ => true
  | .ifd ctrl _ _ _ => !ctrl.getLsbD 2 && !ctrl.getLsbD 1

/-- The symbols a list of words presents, in order: one for each cycle in which `sym_valid_i` is 1. -/
def presentedSymbols : List PortWord → List PulseSymbol
  | [] => []
  | .ipc _ :: rest => presentedSymbols rest
  | .ifd ctrl _ mark space :: rest =>
    if ctrl.getLsbD 0 then ⟨mark, space⟩ :: presentedSymbols rest else presentedSymbols rest

/-- A list of symbols as the sequence the reference function reads. Beyond its end nothing is read in any claim. -/
def windowOf (l : List PulseSymbol) (k : Nat) : PulseSymbol := l.getD k ⟨0#32, 0#32⟩

/-- How many symbols the decoder takes while a list of words is performed: the cycles that are transfers (R51). -/
def transfersIn : List PortWord → State → Nat
  | [], _ => 0
  | w :: rest, s =>
    (if s.dec.transfer w then 1 else 0) +
      match exec (decode w) s with
      | .next t => transfersIn rest t
      | _ => 0

/-- The word that presents a symbol. -/
def symbolWord (x : PulseSymbol) : PortWord := encode (.sym x.mark x.space)

end Sys2Proof
end

