-- ==== Sys2Proof/Certificates/Slice0/Obligations.lean ====
section
/-! DEFINITION. The statements about the model for the provers. Each says which rule of spec/ it formalises; one that rests
on a choice of the model names the log entry. -/

open Sys2Proof Sys2Proof.Machine

/-! ### Encoding -/

/-- R70, R73, R74: words written out from the spec's encodings, the IFD operands those of program P1 of
95_test_vectors.md, stand for the operations they are printed with. The last two clauses rest on the model's choices: how
an opcode-table number of a given width is read (log 10) and where an IFD number has its operands, here the zeros above
`ctrl` that make the count of `START` 0 (log 9). -/
def Obligations.WrittenOutWordsDecode : Prop :=
  decode (.ipc 0x00000232800001194#65) = .classifyLead 9000#32 4500#32 ∧
  decode (.ipc 0x1000002300000069A#65) = .classifyBit 560#32 1690#32 ∧
  decode (.ifd 0b100#3 0x00000000#32 0x00000000#32 0x00000000#32) = .reset ∧
  decode (.ifd 0b010#3 0x00000021#32 0x00000000#32 0x00000000#32) = .start 33#32 ∧
  decode (.ifd 0b001#3 0x00000000#32 0x00002328#32 0x00001194#32) = .sym 9000#32 4500#32 ∧
  decode (.ifd 0b000#3 0x00000000#32 0x00000000#32 0x00000000#32) = .nop ∧
  decodeTableWord 72 0x1000002300000069A = some (.classifyBit 560#32 1690#32) ∧
  decodeTableWord 8 0b010 = some (.start 0#32)

/-- R70: an IPC word is `role`, `mark`, `space` at bits 64, 63 to 32 and 31 to 0, its operation is selected by `role`
alone, and the opcode table has exactly one row for it. -/
def Obligations.RoleAloneSelectsTheClassifierOperation : Prop :=
  ∀ w : BitVec 65,
    decode (.ipc w) = (if w.getLsbD 64 then Instr.classifyBit (w.extractLsb 63 32) (w.extractLsb 31 0)
      else Instr.classifyLead (w.extractLsb 63 32) (w.extractLsb 31 0)) ∧
    (opcodeTable.filter fun r => r.selects (.ipc w)).map TableRow.mnemonic = [(decode (.ipc w)).mnemonic]

/-- R74: `ctrl` alone selects the decoder's operation, with `RESET` before `START` before a symbol, and exactly one row of
the opcode table matches each of its eight values. `ctrl = 011` is among them: a `START`. -/
def Obligations.EveryCtrlValueSelectsOneOperation : Prop :=
  ∀ (ctrl : BitVec 3) (count mark space : Word),
    (ctrl.getLsbD 2 = true → decode (.ifd ctrl count mark space) = .reset) ∧
    (ctrl.getLsbD 2 = false → ctrl.getLsbD 1 = true → decode (.ifd ctrl count mark space) = .start count) ∧
    (ctrl = 0b001#3 → decode (.ifd ctrl count mark space) = .sym mark space) ∧
    (ctrl = 0b000#3 → decode (.ifd ctrl count mark space) = .nop) ∧
    (opcodeTable.filter fun r => r.selects (.ifd ctrl count mark space)).map TableRow.mnemonic =
      [(decode (.ifd ctrl count mark space)).mnemonic]

/-- R73, R145, R216: a bus the operation does not read is ignored whatever it carries. `count_i` is read by `START` only,
the symbol buses by `SYM` only, so a symbol presented together with `START` is not seen. -/
def Obligations.UnreadBusesAreIgnored : Prop :=
  ∀ (ctrl : BitVec 3) (count count' mark mark' space space' : Word),
    (ctrl.getLsbD 2 = true ∨ ctrl = 0b000#3 →
      decode (.ifd ctrl count mark space) = decode (.ifd ctrl count' mark' space')) ∧
    (ctrl.getLsbD 2 = false ∧ ctrl.getLsbD 1 = true →
      decode (.ifd ctrl count mark space) = decode (.ifd ctrl count mark' space')) ∧
    (ctrl = 0b001#3 → decode (.ifd ctrl count mark space) = decode (.ifd ctrl count' mark space))

/-- R70, R73, R74: decode and encode agree for every operation with every operand, as a word and through the byte
container (the container is the model's choice, log 9). -/
def Obligations.DecodeOfEncodeIsTheOperation : Prop :=
  ∀ i : Instr, i.wellFormed = true →
    decode (encode i) = i ∧ decodeBytes (encode i).format (encodeBytes i) = .ok i

/-- R70: every IPC word has one meaning and is that meaning's encoding, so no bit of it is dropped. -/
def Obligations.EncodeOfDecodeIsTheClassifierWord : Prop :=
  ∀ w : BitVec 65, encode (decode (.ipc w)) = .ipc w

/-- The byte container (the model's choice, log 9): every operation word of either format reads back from its bytes,
unread buses included, and a container of the wrong length or with a bit above the format's width is refused by name. -/
def Obligations.EveryWordReadsBackFromItsBytes : Prop :=
  (∀ w : PortWord, parseBytes w.format w.toBytes = .ok w) ∧
  (∀ (fmt : Format) (bs : List Byte), bs.length ≠ fmt.bytes → decodeBytes fmt bs = .error .wrongLength) ∧
  (∀ (fmt : Format) (bs : List Byte), bs.length = fmt.bytes → 2 ^ fmt.bits ≤ bytesToNat bs →
    decodeBytes fmt bs = .error .paddingSet) ∧
  (∀ (fmt : Format) (bs : List Byte), bs.length = fmt.bytes → bytesToNat bs < 2 ^ fmt.bits →
    ∃ i, decodeBytes fmt bs = .ok i)

/-! ### The tolerance test and the classifier -/

/-- R101: the test is on the exact distance, inclusive, and the distance fits in 32 bits. -/
def Obligations.ToleranceTestIsExactDistance : Prop :=
  ∀ (p : Params) (o r : Word),
    absdiff o r = ((o.toNat : Int) - (r.toNat : Int)).natAbs ∧ absdiff o r ≤ 2 ^ 32 - 1 ∧
    (within p o r = true ↔ ((o.toNat : Int) - (r.toNat : Int)).natAbs ≤ p.margin.toNat)

/-- R102: no wrap at either end. The window is `[r - MARGIN, r + MARGIN]` over the integers, met with the durations there
are, the distance fits in 32 bits, and `r = 560, MARGIN = 600` matches exactly `[0, 1160]`. -/
def Obligations.ToleranceWindowClipsAtBothEnds : Prop :=
  (∀ (p : Params) (o r : Word),
    absdiff o r ≤ 2 ^ 32 - 1 ∧
    (within p o r = true ↔
      (r.toNat : Int) - (p.margin.toNat : Int) ≤ (o.toNat : Int) ∧
      (o.toNat : Int) ≤ (r.toNat : Int) + (p.margin.toNat : Int))) ∧
  (∀ o : Word, within (Params.nominal 600#32) o 560#32 = true ↔ o.toNat ≤ 1160)

/-- R107 (which the spec derives from R101 and R103): `r ± MARGIN` match and `r ± (MARGIN + 1)` do not, wherever such a
duration exists; and an operation shows `UNRECOGNIZED` exactly where its durations lie in no window of its role. -/
def Obligations.BoundaryLaw : Prop :=
  (∀ (p : Params) (o r : Word),
    (o.toNat = r.toNat + p.margin.toNat → within p o r = true) ∧
    (o.toNat + p.margin.toNat = r.toNat → within p o r = true) ∧
    (o.toNat = r.toNat + (p.margin.toNat + 1) → within p o r = false) ∧
    (o.toNat + (p.margin.toNat + 1) = r.toNat → within p o r = false)) ∧
  (∀ (p : Params) (mark space : Word),
    (classify p mark space .lead = .unrecognized ↔
      within p mark p.tLeadMark = false ∨
        (within p space p.tLeadSpaceNormal = false ∧ within p space p.tLeadSpaceRepeat = false)) ∧
    (classify p mark space .bit = .unrecognized ↔
      within p mark p.tBitMark = false ∨
        (within p space p.tBitSpace0 = false ∧ within p space p.tBitSpace1 = false)))

/-- R103: where two space windows of a role overlap the first in the source's order wins, overlap needs
`2 * MARGIN` to reach the references' distance, and at the default references that is 1125 for lead and 565 for bit. -/
def Obligations.FirstMatchWinsWhereWindowsOverlap : Prop :=
  (∀ (p : Params) (mark space : Word),
    (within p mark p.tLeadMark = true → within p space p.tLeadSpaceNormal = true →
      within p space p.tLeadSpaceRepeat = true →
      classify p mark space .lead = .leadNormal ∧
      ((p.tLeadSpaceNormal.toNat : Int) - (p.tLeadSpaceRepeat.toNat : Int)).natAbs ≤ 2 * p.margin.toNat) ∧
    (within p mark p.tBitMark = true → within p space p.tBitSpace0 = true → within p space p.tBitSpace1 = true →
      classify p mark space .bit = .bit0 ∧
      ((p.tBitSpace1.toNat : Int) - (p.tBitSpace0.toNat : Int)).natAbs ≤ 2 * p.margin.toNat)) ∧
  (∀ (margin space : Word),
    (within (Params.nominal margin) space 4500#32 = true → within (Params.nominal margin) space 2250#32 = true →
      1125 ≤ margin.toNat) ∧
    (within (Params.nominal margin) space 560#32 = true → within (Params.nominal margin) space 1690#32 = true →
      565 ≤ margin.toNat))

/-- R108: a configuration is separated when `2 * MARGIN` is below the distance of the two space references of each role.
In a separated configuration no duration lies in both space windows of a role, and with the default references a
configuration is separated exactly when `MARGIN ≤ 564`. -/
def Obligations.SeparatedWindowsAreDisjoint : Prop :=
  (∀ p : Params, separated p = true ↔
    2 * p.margin.toNat < ((p.tLeadSpaceNormal.toNat : Int) - (p.tLeadSpaceRepeat.toNat : Int)).natAbs ∧
    2 * p.margin.toNat < ((p.tBitSpace1.toNat : Int) - (p.tBitSpace0.toNat : Int)).natAbs) ∧
  (∀ (p : Params) (space : Word), separated p = true →
    ¬ (within p space p.tLeadSpaceNormal = true ∧ within p space p.tLeadSpaceRepeat = true) ∧
    ¬ (within p space p.tBitSpace0 = true ∧ within p space p.tBitSpace1 = true)) ∧
  (∀ margin : Word, separated (Params.nominal margin) = true ↔ margin.toNat ≤ 564)

/-- R104, R72: role lead shows code 0, 1 or 2, role bit shows 0, 3 or 4, no reserved code is ever shown, and the port
equals the function of its inputs in every state. -/
def Obligations.ClassifierShowsNoReservedCode : Prop :=
  (∀ (p : Params) (mark space : Word),
    ((classify p mark space .lead).code = 0#3 ∨ (classify p mark space .lead).code = 1#3 ∨
      (classify p mark space .lead).code = 2#3) ∧
    ((classify p mark space .bit).code = 0#3 ∨ (classify p mark space .bit).code = 3#3 ∨
      (classify p mark space .bit).code = 4#3) ∧
    classify p mark space .lead = classifyAsLead p mark space ∧
    classify p mark space .bit = classifyAsBit p mark space) ∧
  (∀ s : State, s.outputs.classO = (classify s.params s.cls.mark s.cls.space s.cls.role).code)

/-- R105: `CLASSIFY.LEAD` completes in every state with every operand; `class_o` then shows 1 if the mark is within
`MARGIN` of `T_LEAD_MARK` and the space of `T_LEAD_SPACE_NORMAL`, else 2 if the mark is and the space is within it of
`T_LEAD_SPACE_REPEAT`, else 0. Its word has `role = 0`. No decoder register, parameter or pending operation changes. -/
def Obligations.ClassifyLeadShowsItsClass : Prop :=
  ∀ (mark space : Word) (s : State),
    decode (.ipc (0#1 ++ mark ++ space)) = .classifyLead mark space ∧
    ∃ t, exec (.classifyLead mark space) s = .next t ∧
      t.cls = ⟨mark, space, .lead⟩ ∧ t.dec = s.dec ∧ t.params = s.params ∧ t.pending = s.pending ∧
      t.outputs.classO =
        (if ((mark.toNat : Int) - (s.params.tLeadMark.toNat : Int)).natAbs ≤ s.params.margin.toNat ∧
            ((space.toNat : Int) - (s.params.tLeadSpaceNormal.toNat : Int)).natAbs ≤ s.params.margin.toNat then 1#3
         else if ((mark.toNat : Int) - (s.params.tLeadMark.toNat : Int)).natAbs ≤ s.params.margin.toNat ∧
            ((space.toNat : Int) - (s.params.tLeadSpaceRepeat.toNat : Int)).natAbs ≤ s.params.margin.toNat then 2#3
         else 0#3)

/-- R106: `CLASSIFY.BIT` completes in every state with every operand; `class_o` then shows 0 if the mark is not within
`MARGIN` of `T_BIT_MARK`, else 3 if the space is within it of `T_BIT_SPACE_0`, else 4 if of `T_BIT_SPACE_1`, else 0. Its
word has `role = 1`. No decoder register, parameter or pending operation changes. -/
def Obligations.ClassifyBitShowsItsClass : Prop :=
  ∀ (mark space : Word) (s : State),
    decode (.ipc (1#1 ++ mark ++ space)) = .classifyBit mark space ∧
    ∃ t, exec (.classifyBit mark space) s = .next t ∧
      t.cls = ⟨mark, space, .bit⟩ ∧ t.dec = s.dec ∧ t.params = s.params ∧ t.pending = s.pending ∧
      t.outputs.classO =
        (if ¬ ((mark.toNat : Int) - (s.params.tBitMark.toNat : Int)).natAbs ≤ s.params.margin.toNat then 0#3
         else if ((space.toNat : Int) - (s.params.tBitSpace0.toNat : Int)).natAbs ≤ s.params.margin.toNat then 3#3
         else if ((space.toNat : Int) - (s.params.tBitSpace1.toNat : Int)).natAbs ≤ s.params.margin.toNat then 4#3
         else 0#3)

/-- R100, R20, R60: what `class_o` shows after an evaluation depends on the operands, the role and the parameters alone,
and no decoder operation changes it. -/
def Obligations.ClassifierOutputDependsOnItsInputsAlone : Prop :=
  (∀ (mark space : Word) (s s' t t' : State), s.params = s'.params →
    (exec (.classifyLead mark space) s = .next t → exec (.classifyLead mark space) s' = .next t' →
      t.outputs.classO = t'.outputs.classO) ∧
    (exec (.classifyBit mark space) s = .next t → exec (.classifyBit mark space) s' = .next t' →
      t.outputs.classO = t'.outputs.classO)) ∧
  (∀ (ctrl : BitVec 3) (count mark space : Word) (s t : State),
    exec (decode (.ifd ctrl count mark space)) s = .next t → t.outputs.classO = s.outputs.classO)

/-! ### RESET, NOP, START -/

/-- R210, R36: `RESET` completes in every state and every register takes its value from the table, whatever the other
inputs of the cycle carry. The classifier's ports, the parameters and the pending operations stay. -/
def Obligations.ResetLoadsTheResetTable : Prop :=
  ∀ (ctrl : BitVec 3) (count mark space : Word) (s : State), ctrl.getLsbD 2 = true →
    decode (.ifd ctrl count mark space) = .reset ∧
    ∃ t, exec .reset s = .next t ∧
      t.dec = { st := .idle, kind := .kRepeat, idx := 0#6, acc := 0#32, done := false, result := .none,
                reason := .none, badIndex := 0#6, cmd := 0#8, addr := 0#8, raw := 0#32 } ∧
      t.cls = s.cls ∧ t.params = s.params ∧ t.pending = s.pending ∧
      t.outputs.busyO = 0#1 ∧ t.outputs.symReadyO = 0#1 ∧ t.outputs.doneO = 0#1

/-- R132: `NOP` completes in every state and changes no register; a symbol presented while `IDLE` acts as `NOP`. -/
def Obligations.NopChangesNothing : Prop :=
  ∀ (s : State) (count mark space : Word),
    decode (.ifd 0b000#3 count mark space) = .nop ∧
    exec .nop s = .next s ∧
    (s.dec.st = .idle → exec (decode (.ifd 0b001#3 count mark space)) s = .next s)

/-- R134, R135: `START` completes in every state and writes every register, each as a function of the count alone: a
count of 1 or 33 waits for its lead, any other is `WRONG_SYMBOL_COUNT` at the `START` edge itself. -/
def Obligations.StartChecksTheCountFirst : Prop :=
  ∀ (ctrl : BitVec 3) (count mark space : Word) (s : State), ctrl.getLsbD 2 = false → ctrl.getLsbD 1 = true →
    decode (.ifd ctrl count mark space) = .start count ∧
    exec (.start count) s = .next { s with dec :=
      if count = 1#32 then
        { st := .lead, kind := .kRepeat, idx := 0#6, acc := 0#32, done := false, result := .none, reason := .none,
          badIndex := 0#6, cmd := 0#8, addr := 0#8, raw := 0#32 }
      else if count = 33#32 then
        { st := .lead, kind := .kNormal, idx := 0#6, acc := 0#32, done := false, result := .none, reason := .none,
          badIndex := 0#6, cmd := 0#8, addr := 0#8, raw := 0#32 }
      else
        { st := .idle, kind := .kRepeat, idx := 0#6, acc := 0#32, done := true, result := .invalid,
          reason := .wrongSymbolCount, badIndex := 0#6, cmd := 0#8, addr := 0#8, raw := 0#32 } }

/-- R136: a `START` abandons a window in progress and discards a held result: two machines that differ only in their
decoder registers, whatever these hold, are the same after it. -/
def Obligations.StartLeavesNoTraceOfEarlierWindows : Prop :=
  ∀ (count : Word) (s : State) (d : Decoder),
    ∃ t, exec (.start count) s = .next t ∧ exec (.start count) { s with dec := d } = .next t

/-! ### SYM -/

/-- R138: the only symbol of a one-symbol window gives `REPEAT` for a repeat lead and `BAD_LEAD_MARKER` for anything else,
a normal lead included. The payload registers keep the zeros `START` gave them. -/
def Obligations.SoleSymbolDecidesARepeatFrame : Prop :=
  ∀ (mark space : Word) (s : State), s.dec.st = .lead → s.dec.kind = .kRepeat →
    exec (.sym mark space) s = .next { s with dec := { s.dec with
      st := .idle, done := true,
      result := if classify s.params mark space .lead = .leadRepeat then .repeated else .invalid,
      reason := if classify s.params mark space .lead = .leadRepeat then .none else .badLeadMarker } } ∧
    (s.Inv → s.dec.cmd = 0#8 ∧ s.dec.addr = 0#8 ∧ s.dec.raw = 0#32 ∧ s.dec.badIndex = 0#6)

/-- R139: symbol 0 of a 33-symbol window moves to `PAYLOAD` for a normal lead, and is `BAD_LEAD_MARKER` for anything else,
a repeat lead included. `idx` and `acc` are the zeros `START` gave them. -/
def Obligations.FirstSymbolOpensANormalFrame : Prop :=
  ∀ (mark space : Word) (s : State), s.dec.st = .lead → s.dec.kind = .kNormal →
    exec (.sym mark space) s = .next (s.setDec
      (if classify s.params mark space .lead = .leadNormal then { s.dec with st := .payload }
       else { s.dec with st := .idle, done := true, result := .invalid, reason := .badLeadMarker })) ∧
    (s.Inv → s.dec.idx = 0#6 ∧ s.dec.acc = 0#32)

/-- R140: a payload symbol that is no bit ends the window with `BAD_PAYLOAD_BIT` and its window index. `acc` and `idx`
keep the value they had, and `raw` stays 0. -/
def Obligations.UnrecognizedPayloadSymbolEndsTheWindow : Prop :=
  ∀ (mark space : Word) (s : State), s.dec.st = .payload → classify s.params mark space .bit = .unrecognized →
    exec (.sym mark space) s = .next { s with dec := { s.dec with
      st := .idle, done := true, result := .invalid, reason := .badPayloadBit, badIndex := s.dec.idx + 1#6 } } ∧
    (s.Inv → (s.dec.idx + 1#6).toNat = s.dec.idx.toNat + 1 ∧ 1 ≤ s.dec.idx.toNat + 1 ∧ s.dec.idx.toNat + 1 ≤ 32 ∧
      s.dec.raw = 0#32)

/-- R141: a recognized payload symbol with `idx < 31` puts its bit at position `idx` and counts. `st` stays `PAYLOAD`. -/
def Obligations.RecognizedBitIsAccumulated : Prop :=
  ∀ (mark space : Word) (s : State), s.dec.st = .payload → s.dec.idx.toNat < 31 →
    classify s.params mark space .bit ≠ .unrecognized →
    exec (.sym mark space) s = .next { s with dec := { s.dec with
      acc := s.dec.acc |||
        (if classify s.params mark space .bit = .bit1 then 1#32 else 0#32) <<< s.dec.idx.toNat,
      idx := s.dec.idx + 1#6 } }

/-- R142: the 32nd recognized payload symbol completes the word and checks it at the same edge: `COMMAND` with the command
and the address if both byte pairs are complements, else `COMPLEMENT_MISMATCH` with both still 0. `raw` holds the word
either way. -/
def Obligations.LastBitValidatesAtTheSameEdge : Prop :=
  ∀ (mark space : Word) (s : State) (w : Word), s.dec.st = .payload → s.dec.idx = 31#6 →
    classify s.params mark space .bit ≠ .unrecognized →
    w = s.dec.acc ||| (if classify s.params mark space .bit = .bit1 then 1#32 else 0#32) <<< 31 →
    exec (.sym mark space) s = .next (s.setDec
      (if complementOk w then
        { s.dec with acc := w, idx := 32#6, raw := w, st := .idle, done := true, result := .command, reason := .none,
                     cmd := w.extractLsb 23 16, addr := w.extractLsb 7 0 }
       else
        { s.dec with acc := w, idx := 32#6, raw := w, st := .idle, done := true, result := .invalid,
                     reason := .complementMismatch })) ∧
    (s.Inv → s.dec.cmd = 0#8 ∧ s.dec.addr = 0#8)

/-- R143: the check holds exactly when each complement byte is the complement of its partner, in both forms the rule
gives, and its verdict is the same when the bits of both bytes of a pair are reversed. -/
def Obligations.ComplementCheckComparesBytePairs : Prop :=
  (∀ w : Word, complementOk w = true ↔
    w.extractLsb 15 8 = ~~~(w.extractLsb 7 0) ∧ w.extractLsb 31 24 = ~~~(w.extractLsb 23 16)) ∧
  (∀ w : Word, complementOk w = true ↔
    (w.extractLsb 15 8 ^^^ w.extractLsb 7 0) = 0xFF#8 ∧ (w.extractLsb 31 24 ^^^ w.extractLsb 23 16) = 0xFF#8) ∧
  (∀ a b c d : Byte,
    complementOk (a.reverse ++ b.reverse ++ c ++ d) = complementOk (a ++ b ++ c ++ d) ∧
    complementOk (a ++ b ++ c.reverse ++ d.reverse) = complementOk (a ++ b ++ c ++ d))

/-- R55 (which the spec derives from R53 and R54): the halves of the payload word are each byte's complement above the
byte, and for command 0x16 the upper half of an accepted word is 0xE916. -/
def Obligations.PayloadHalvesPairEachByteWithItsComplement : Prop :=
  ∀ w : Word,
    w.extractLsb 31 16 = commandComplementOf w ++ commandOf w ∧
    w.extractLsb 15 0 = addressComplementOf w ++ addressOf w ∧
    (complementOk w = true → commandOf w = 0x16#8 → w.extractLsb 31 16 = 0xE916#16)

/-- The frame of the decoder's operations (R20, R58, R131): they write the decoder's registers and nothing else, and a
classifier evaluation writes none of them. -/
def Obligations.OperationsWriteOnlyTheirOwnBlock : Prop :=
  ∀ (i : Instr) (s t : State), exec i s = .next t →
    t.params = s.params ∧ t.pending = s.pending ∧
    ((∃ mark space, i = .classifyLead mark space ∨ i = .classifyBit mark space) → t.dec = s.dec) ∧
    ((i = .reset ∨ i = .nop ∨ (∃ count, i = .start count) ∨ ∃ mark space, i = .sym mark space) → t.cls = s.cls)

/-! ### The step -/

/-- A step performs the host's oldest pending operation, with that word taken off and nothing else done. That the program
is the sequence of host operations is R61's and R83's; the list it waits in is the model's choice (log 1). A container of
bytes that decodes holds the word of its operation, and the container is the model's choice (log 9). With nothing pending
the step changes nothing, which the model deduces (log 2). -/
def Obligations.StepPerformsTheNextOperation : Prop :=
  (∀ (s : State) (w : PortWord) (rest : List PortWord), s.pending = w :: rest →
    step s = exec (decode w) { s with pending := rest }) ∧
  (∀ (s : State) (fmt : Format) (bs : List Byte) (i : Instr) (rest : List PortWord), decodeBytes fmt bs = .ok i →
    ∃ w, parseBytes fmt bs = .ok w ∧
      (s.pending = w :: rest → step s = exec i { s with pending := rest })) ∧
  (∀ s : State, s.pending = [] → step s = .next s)

/-- An opcode-table row's word placed for the fetch is what the next step performs (log 1, log 10). -/
def Obligations.PlacedWordIsPerformedNext : Prop :=
  ∀ (s : State) (nbits w : Nat) (i : Instr), decodeTableWord nbits w = some i →
    step (s.withFetchWord nbits w) = exec i s

/-- R153 (which the spec derives from R131 to R143): on every decoder cycle, whatever the inputs and the registers, the
machine's step and the spec's step function on registers agree. -/
def Obligations.StepAgreesWithTheStepFunction : Prop :=
  ∀ (s : State) (ctrl : BitVec 3) (count mark space : Word) (rest : List PortWord),
    s.pending = .ifd ctrl count mark space :: rest →
    step s = .next { s with
      dec := referenceStep s.params s.dec (.ofPorts ctrl count mark space), pending := rest }

/-- R33: `busy_o` and `sym_ready_o` are 1 exactly when `st` is not `IDLE`, whatever else the state holds: two states with
the same `st` show the same on both. -/
def Obligations.StatusOutputsFollowTheControlState : Prop :=
  (∀ s : State, (s.outputs.busyO = 1#1 ↔ s.dec.st ≠ .idle) ∧ (s.outputs.symReadyO = 1#1 ↔ s.dec.st ≠ .idle)) ∧
  (∀ s s' : State, s.dec.st = s'.dec.st →
    s.outputs.busyO = s'.outputs.busyO ∧ s.outputs.symReadyO = s'.outputs.symReadyO)

/-- R22, R77, R27 to R34: the other output ports show the registers, as codes of their widths, and R35: the index of the
next symbol is 0 in `LEAD`, `idx + 1` in `PAYLOAD` and none in `IDLE`. -/
def Obligations.OutputPortsShowTheRegisters : Prop :=
  ∀ s : State,
    (s.outputs.doneO = 1#1 ↔ s.dec.done = true) ∧ s.outputs.resultO = s.dec.result.code ∧
    s.outputs.reasonO = s.dec.reason.code ∧ s.outputs.badIndexO = s.dec.badIndex ∧ s.outputs.cmdO = s.dec.cmd ∧
    s.outputs.addrO = s.dec.addr ∧ s.outputs.rawO = s.dec.raw ∧
    s.dec.nextIndex = (if s.dec.st = .lead then some 0
      else if s.dec.st = .payload then some (s.dec.idx.toNat + 1) else none)

/-- R51, R217, R58: only a transfer takes a symbol. In a cycle that is none, a presented symbol changes nothing: the step
is the one of the same cycle with `sym_valid_i` low and anything on the symbol buses; and a cycle that is no `RESET`, no
`START` and no transfer changes no register of the decoder. -/
def Obligations.OnlyATransferTakesASymbol : Prop :=
  ∀ (s : State) (ctrl : BitVec 3) (count mark mark' space space' : Word),
    (s.dec.transfer (.ifd ctrl count mark space) = true ↔
      ctrl.getLsbD 0 = true ∧ s.outputs.symReadyO = 1#1 ∧ ctrl.getLsbD 1 = false ∧ ctrl.getLsbD 2 = false) ∧
    (s.dec.transfer (.ifd ctrl count mark space) = false →
      step (s.place (.ifd ctrl count mark space)) = step (s.place (.ifd (ctrl &&& 0b110#3) count mark' space'))) ∧
    (s.dec.transfer (.ifd ctrl count mark space) = false → ctrl.getLsbD 1 = false → ctrl.getLsbD 2 = false →
      ∃ t, step (s.place (.ifd ctrl count mark space)) = .next t ∧ t.dec = s.dec)

/-- R180, R81, R191: no operation traps, faults or is refused: every step of every state answers a next state. -/
def Obligations.EveryStepAnswersANextState : Prop :=
  (∀ s : State, ∃ t, step s = .next t) ∧ (∀ (i : Instr) (s : State), ∃ t, exec i s = .next t)

/-- R219, R213: no step and no run changes an elaboration parameter. -/
def Obligations.ParametersNeverChange : Prop :=
  (∀ s t : State, step s = .next t → t.params = s.params) ∧
  (∀ (ws : List PortWord) (s t : State), runWords ws s = .next t → t.params = s.params)

/-! ### Invariants -/

/-- R36, R212: the reset state has the invariant, with no window running and no result held. -/
def Obligations.InvariantHoldsAtReset : Prop :=
  State.reset.Inv ∧ State.reset.dec.HoldsNothing ∧ State.reset.outputs.busyO = 0#1 ∧
    State.reset.outputs.symReadyO = 0#1

/-- R26 to R34, R148, R149, R215: from every state with the invariant, a step gives a state with it. -/
def Obligations.EveryStepKeepsTheInvariant : Prop :=
  ∀ s t : State, s.Inv → step s = .next t → t.Inv

/-- R211, R37: a `RESET` or a `START` gives the invariant from any registers at all, known or not. For `START` without a
`RESET` before it this is the model's deduction from R134 and R135, which write every register in every state (log 6):
R213, R224 and 93_implementation_defined.md ask a model to refuse claims about runs with no `RESET`. -/
def Obligations.ResetAndStartEstablishTheInvariant : Prop :=
  ∀ (s : State) (count : Word),
    (∃ t, exec .reset s = .next t ∧ t.Inv) ∧ (∃ t, exec (.start count) s = .next t ∧ t.Inv)

/-- R149 (which the spec derives from R133 to R142): the result registers at a terminal, with every field the table does
not set at 0. The premise that the state before had the invariant rules out registers no reset leads to. -/
def Obligations.TerminalsLeaveTheResultTable : Prop :=
  ∀ s t : State, s.Inv → step s = .next t → t.dec.done = true →
    (t.dec.result = .command ∧ t.dec.reason = .none ∧ t.dec.badIndex = 0#6 ∧ t.dec.cmd = t.dec.raw.extractLsb 23 16 ∧
      t.dec.addr = t.dec.raw.extractLsb 7 0 ∧ t.dec.raw = t.dec.acc) ∨
    (t.dec.result = .repeated ∧ t.dec.reason = .none ∧ t.dec.badIndex = 0#6 ∧ t.dec.cmd = 0#8 ∧ t.dec.addr = 0#8 ∧
      t.dec.raw = 0#32) ∨
    (t.dec.result = .invalid ∧ (t.dec.reason = .wrongSymbolCount ∨ t.dec.reason = .badLeadMarker) ∧
      t.dec.badIndex = 0#6 ∧ t.dec.cmd = 0#8 ∧ t.dec.addr = 0#8 ∧ t.dec.raw = 0#32) ∨
    (t.dec.result = .invalid ∧ t.dec.reason = .badPayloadBit ∧ t.dec.badIndex.toNat = t.dec.idx.toNat + 1 ∧
      t.dec.badIndex.toNat ≤ 32 ∧ t.dec.cmd = 0#8 ∧ t.dec.addr = 0#8 ∧ t.dec.raw = 0#32) ∨
    (t.dec.result = .invalid ∧ t.dec.reason = .complementMismatch ∧ t.dec.badIndex = 0#6 ∧ t.dec.cmd = 0#8 ∧
      t.dec.addr = 0#8 ∧ t.dec.raw = t.dec.acc)

/-- R215, R27, R28: from a state with the invariant, whenever a step leaves the decoder busy, `done_o` and every result
output read 0. -/
def Obligations.BusyOutputsReadNone : Prop :=
  ∀ s t : State, s.Inv → step s = .next t → t.outputs.busyO = 1#1 →
    t.outputs.doneO = 0#1 ∧ t.outputs.resultO = 0#2 ∧ t.outputs.reasonO = 0#3 ∧ t.outputs.badIndexO = 0#6 ∧
      t.outputs.cmdO = 0#8 ∧ t.outputs.addrO = 0#8 ∧ t.outputs.rawO = 0#32

/-- R186: a window that has ended has exactly one of the three outcomes, and no command or address is delivered but from
a word whose byte pairs are complements. -/
def Obligations.NoPartialCommandApplication : Prop :=
  ∀ s t : State, s.Inv → step s = .next t →
    (t.dec.done = true ↔ t.dec.result = .command ∨ t.dec.result = .repeated ∨ t.dec.result = .invalid) ∧
    (t.dec.cmd ≠ 0#8 ∨ t.dec.addr ≠ 0#8 → t.dec.result = .command) ∧
    (t.dec.result = .command → ∀ b < 8, t.dec.cmd.getLsbD b = t.dec.raw.getLsbD (16 + b) ∧
      t.dec.raw.getLsbD (24 + b) = !t.dec.raw.getLsbD (16 + b) ∧ t.dec.addr.getLsbD b = t.dec.raw.getLsbD b ∧
      t.dec.raw.getLsbD (8 + b) = !t.dec.raw.getLsbD b)

/-- R24, R130: the control state moves only forward within a window. `LEAD` is entered by a `START` of a legal count
alone, `PAYLOAD` from `LEAD` alone, by a symbol of a normal frame that is a normal lead. -/
def Obligations.ControlStateMovesOnlyForward : Prop :=
  ∀ (i : Instr) (s t : State), exec i s = .next t →
    (t.dec.st = .lead → s.dec.st ≠ .lead → i = .start 1#32 ∨ i = .start 33#32) ∧
    (t.dec.st = .payload → s.dec.st ≠ .payload → s.dec.st = .lead ∧ s.dec.kind = .kNormal ∧
      ∃ mark space, i = .sym mark space ∧ classify s.params mark space .lead = .leadNormal) ∧
    (s.dec.st = .payload → t.dec.st = .lead → i = .start 1#32 ∨ i = .start 33#32)

/-- R144: after a terminal the decoder is `IDLE`, not ready, and keeps its registers through any cycles that neither start
nor reset, however many symbols they present. -/
def Obligations.IdleTakesNoSymbolUntilTheNextStart : Prop :=
  ∀ (s : State) (ws : List PortWord), s.Inv → s.dec.done = true → (∀ w ∈ ws, isQuiet w = true) →
    s.dec.st = .idle ∧ s.outputs.symReadyO = 0#1 ∧ ∃ t, runWords ws s = .next t ∧ t.dec = s.dec

/-- R218, R132: there is no timeout. However long no symbol comes, a busy decoder stays as it is, busy and not done. -/
def Obligations.WaitingDecoderNeverTimesOut : Prop :=
  ∀ (s : State) (ws : List PortWord), s.Inv → s.dec.st ≠ .idle → (∀ w ∈ ws, isQuiet w = true) →
    presentedSymbols ws = [] →
    ∃ t, runWords ws s = .next t ∧ t.dec = s.dec ∧ t.outputs.busyO = 1#1 ∧ t.outputs.doneO = 0#1

/-! ### Windows -/

/-- R151 (which the spec derives): from ANY state, a `START n` followed by cycles that neither reset nor start, with any
number of idle cycles and classifier evaluations among them, decodes the presented symbols as the reference function
does. Once as many symbols were presented as that function takes the result is held and is that function's; until then
the decoder is busy and not done. -/
def Obligations.DecoderAgreesWithTheReferenceFunction : Prop :=
  ∀ (s : State) (n : Word) (w0 : PortWord) (ws : List PortWord), decode w0 = .start n →
    (∀ w ∈ ws, isQuiet w = true) →
    ∃ t, runWords (w0 :: ws) s = .next t ∧
      (symbolsTaken s.params n (windowOf (presentedSymbols ws)) ≤ (presentedSymbols ws).length →
        t.dec.done = true ∧ t.dec.st = .idle ∧
        t.dec.decoded = decodeWindow s.params n (windowOf (presentedSymbols ws))) ∧
      ((presentedSymbols ws).length < symbolsTaken s.params n (windowOf (presentedSymbols ws)) →
        t.dec.done = false ∧ t.outputs.busyO = 1#1)

/-- R147 (which the spec derives): how many symbols of a window are taken: none, 1, 1, `j + 1` for the first unrecognized
payload symbol `j`, or 33, never more than `min(n, 33)`; and a machine that has performed `START n` takes that many of
the symbols presented after it, or all of them while there are fewer. -/
def Obligations.SymbolsTakenFollowTheTable : Prop :=
  (∀ (p : Params) (n : Word) (x : Nat → PulseSymbol),
    symbolsTaken p n x ≤ min n.toNat 33 ∧
    (n ≠ 1#32 → n ≠ 33#32 → symbolsTaken p n x = 0) ∧
    (n = 1#32 → symbolsTaken p n x = 1) ∧
    (n = 33#32 → classAt p x 0 .lead ≠ .leadNormal → symbolsTaken p n x = 1) ∧
    (∀ j, n = 33#32 → classAt p x 0 .lead = .leadNormal → 1 ≤ j → j ≤ 32 → classAt p x j .bit = .unrecognized →
      (∀ k, 1 ≤ k → k < j → classAt p x k .bit ≠ .unrecognized) → symbolsTaken p n x = j + 1) ∧
    (n = 33#32 → classAt p x 0 .lead = .leadNormal → (∀ k, 1 ≤ k → k ≤ 32 → classAt p x k .bit ≠ .unrecognized) →
      symbolsTaken p n x = 33)) ∧
  (∀ (s t : State) (n : Word) (ws : List PortWord), exec (.start n) s = .next t → (∀ w ∈ ws, isQuiet w = true) →
    transfersIn ws t =
      min (presentedSymbols ws).length (symbolsTaken s.params n (windowOf (presentedSymbols ws))))

/-- R152 (which the spec derives): decoding the same window twice, from any two states with the same parameters, with any
idle cycles, gives the same result both times. -/
def Obligations.DecodingTwiceGivesTheSameResult : Prop :=
  ∀ (s s' : State) (n : Word) (ws ws' : List PortWord), s.params = s'.params →
    (∀ w ∈ ws, isQuiet w = true) → (∀ w ∈ ws', isQuiet w = true) → presentedSymbols ws = presentedSymbols ws' →
    ∃ t t', runWords (encode (.start n) :: ws) s = .next t ∧ runWords (encode (.start n) :: ws') s' = .next t' ∧
      t.dec = t'.dec

/-- R185 (which the spec derives): of several causes the first in the order count, lead, lowest bad payload symbol,
complements is the one reported. The premise is a window whose symbols were all presented: `n` of them for a legal
count. -/
def Obligations.FirstCauseInOrderIsReported : Prop :=
  ∀ (s t : State) (n : Word) (ws : List PortWord), (∀ w ∈ ws, isQuiet w = true) →
    (n = 1#32 ∨ n = 33#32 → n.toNat ≤ (presentedSymbols ws).length) →
    runWords (encode (.start n) :: ws) s = .next t →
    (n ≠ 1#32 → n ≠ 33#32 → t.dec.result = .invalid ∧ t.dec.reason = .wrongSymbolCount) ∧
    (n = 1#32 → classAt s.params (windowOf (presentedSymbols ws)) 0 .lead ≠ .leadRepeat →
      t.dec.result = .invalid ∧ t.dec.reason = .badLeadMarker) ∧
    (n = 33#32 → classAt s.params (windowOf (presentedSymbols ws)) 0 .lead ≠ .leadNormal →
      t.dec.result = .invalid ∧ t.dec.reason = .badLeadMarker) ∧
    (∀ j, n = 33#32 → classAt s.params (windowOf (presentedSymbols ws)) 0 .lead = .leadNormal → 1 ≤ j → j ≤ 32 →
      classAt s.params (windowOf (presentedSymbols ws)) j .bit = .unrecognized →
      (∀ k, 1 ≤ k → k < j → classAt s.params (windowOf (presentedSymbols ws)) k .bit ≠ .unrecognized) →
      t.dec.result = .invalid ∧ t.dec.reason = .badPayloadBit ∧ t.dec.badIndex.toNat = j) ∧
    (n = 33#32 → classAt s.params (windowOf (presentedSymbols ws)) 0 .lead = .leadNormal →
      (∀ k, 1 ≤ k → k ≤ 32 → classAt s.params (windowOf (presentedSymbols ws)) k .bit ≠ .unrecognized) →
      t.dec.reason = (if complementOk t.dec.raw then .none else .complementMismatch) ∧
      t.dec.result = (if complementOk t.dec.raw then .command else .invalid))

/-- R53, R54: of a normal frame whose payload symbols are all recognized, payload symbol `b + 1` is bit `b` of `raw`, 1
exactly for a `BIT1`: the first payload symbol is the least significant bit, and a command's bits come from symbols 17
to 24 and its address's from 1 to 8. -/
def Obligations.PayloadSymbolsArriveLeastSignificantFirst : Prop :=
  ∀ (s t : State) (ws : List PortWord), (∀ w ∈ ws, isQuiet w = true) → 33 ≤ (presentedSymbols ws).length →
    classAt s.params (windowOf (presentedSymbols ws)) 0 .lead = .leadNormal →
    (∀ k, 1 ≤ k → k ≤ 32 → classAt s.params (windowOf (presentedSymbols ws)) k .bit ≠ .unrecognized) →
    runWords (encode (.start 33#32) :: ws) s = .next t →
    (∀ b < 32, (t.dec.raw.getLsbD b = true ↔
      classAt s.params (windowOf (presentedSymbols ws)) (b + 1) .bit = .bit1)) ∧
    (t.dec.result = .command → ∀ b < 8,
      (t.dec.cmd.getLsbD b = true ↔ classAt s.params (windowOf (presentedSymbols ws)) (17 + b) .bit = .bit1) ∧
      (t.dec.addr.getLsbD b = true ↔ classAt s.params (windowOf (presentedSymbols ws)) (1 + b) .bit = .bit1))

/-- R35 (which the spec derives), R52: while a window is being decoded, the index of the next symbol is the number
presented since its `START`. -/
def Obligations.NextIndexCountsThePresentedSymbols : Prop :=
  ∀ (s t : State) (n : Word) (ws : List PortWord), (∀ w ∈ ws, isQuiet w = true) →
    runWords (encode (.start n) :: ws) s = .next t → t.outputs.busyO = 1#1 →
    t.dec.nextIndex = some (presentedSymbols ws).length

/-- R10: a window of which fewer than 33 symbols are presented never gives a command, so a Capture Source of a smaller
capacity cannot deliver a normal frame. -/
def Obligations.FewerThan33SymbolsGiveNoCommand : Prop :=
  ∀ (s t : State) (n : Word) (ws : List PortWord), (∀ w ∈ ws, isQuiet w = true) → (presentedSymbols ws).length < 33 →
    runWords (encode (.start n) :: ws) s = .next t → t.dec.result ≠ .command

/-- R221: with a symbol in every cycle after `START`, the result appears with the edge of the last symbol taken: one edge
for `START` and one for each symbol, and not before. -/
def Obligations.CompletionTakesOneEdgePerSymbol : Prop :=
  ∀ (s t : State) (n : Word) (l : List PulseSymbol),
    runWords (encode (.start n) :: l.map symbolWord) s = .next t →
    (t.dec.done = true ↔ symbolsTaken s.params n (windowOf l) ≤ l.length)

/-- W1, W2 with R84, R142, R149: the window `FRAMEW w` at nominal timings, from any state, ends with its word in `raw`:
`COMMAND` with its command and address if the byte pairs are complements, else `COMPLEMENT_MISMATCH`. The premise is that
the two bit spaces are more than `MARGIN` apart, without which a nominal `BIT1` would read as a `BIT0` (R103). -/
def Obligations.FramewDecodesToItsWord : Prop :=
  ∀ (s : State) (w : Word), within s.params s.params.tBitSpace1 s.params.tBitSpace0 = false →
    ∃ t, runWords (assemble s.params [.frameW w]) s = .next t ∧ t.dec.done = true ∧ t.dec.raw = w ∧
      t.dec.badIndex = 0#6 ∧
      (complementOk w = true → t.dec.result = .command ∧ t.dec.reason = .none ∧ t.dec.cmd = w.extractLsb 23 16 ∧
        t.dec.addr = w.extractLsb 7 0) ∧
      (complementOk w = false → t.dec.result = .invalid ∧ t.dec.reason = .complementMismatch ∧ t.dec.cmd = 0#8 ∧
        t.dec.addr = 0#8)

/-- W1 with R84: the window `FRAME a, c` at nominal timings, for every address and command and from any state, decodes to
`COMMAND(c)` with address `a` and the word of the two bytes and their complements, in 34 edges (R221). -/
def Obligations.FrameDecodesToItsCommand : Prop :=
  ∀ (s : State) (a c : Byte), within s.params s.params.tBitSpace1 s.params.tBitSpace0 = false →
    (assemble s.params [.frame a c]).length = 34 ∧
    ∃ t, runWords (assemble s.params [.frame a c]) s = .next t ∧ t.dec.done = true ∧
      t.dec.decoded = { result := .command, reason := .none, badIndex := 0#6, cmd := c, addr := a,
                        raw := (~~~c) ++ c ++ (~~~a) ++ a }

/-- W3 with R84, R138, R146: the window `RFRAME` at nominal timings, from any state, decodes to `REPEAT` with every other
result register 0. The premise is that the two lead spaces are more than `MARGIN` apart (R103). -/
def Obligations.RepeatFrameDecodesToRepeat : Prop :=
  ∀ s : State, within s.params s.params.tLeadSpaceRepeat s.params.tLeadSpaceNormal = false →
    ∃ t, runWords (assemble s.params [.rFrame]) s = .next t ∧ t.dec.done = true ∧
      t.dec.decoded = { result := .repeated, reason := .none, badIndex := 0#6, cmd := 0#8, addr := 0#8, raw := 0#32 }

/-! ### Codes and host programs -/

/-- R24, R25, R71, R72, R78, R79: the codes of the tables. -/
def Obligations.CodesFollowTheTables : Prop :=
  St.idle.code = 0#2 ∧ St.lead.code = 1#2 ∧ St.payload.code = 2#2 ∧
  Kind.kRepeat.code = 0#1 ∧ Kind.kNormal.code = 1#1 ∧ Role.lead.code = 0#1 ∧ Role.bit.code = 1#1 ∧
  PulseClass.unrecognized.code = 0#3 ∧ PulseClass.leadNormal.code = 1#3 ∧ PulseClass.leadRepeat.code = 2#3 ∧
  PulseClass.bit0.code = 3#3 ∧ PulseClass.bit1.code = 4#3 ∧
  Result.none.code = 0#2 ∧ Result.command.code = 1#2 ∧ Result.repeated.code = 2#2 ∧ Result.invalid.code = 3#2 ∧
  Reason.none.code = 0#3 ∧ Reason.wrongSymbolCount.code = 1#3 ∧ Reason.badLeadMarker.code = 2#3 ∧
  Reason.badPayloadBit.code = 3#3 ∧ Reason.complementMismatch.code = 4#3

/-- R84: what the pseudo-operations expand to. `PAYLOAD w` is 32 lines and its line `b` is `BIT1` or `BIT0` by `w[b]`. -/
def Obligations.PseudoOperationsExpandAsTheTableSays : Prop :=
  ∀ (p : Params) (w : Word) (a c : Byte) (k : Nat),
    Line.expand p .leadN = [.sym p.tLeadMark p.tLeadSpaceNormal] ∧
    Line.expand p .leadR = [.sym p.tLeadMark p.tLeadSpaceRepeat] ∧
    Line.expand p .bit0 = [.sym p.tBitMark p.tBitSpace0] ∧
    Line.expand p .bit1 = [.sym p.tBitMark p.tBitSpace1] ∧
    (Line.expand p (.payload w)).length = 32 ∧
    (∀ b < 32, (Line.expand p (.payload w))[b]? =
      some (.sym p.tBitMark (if w.getLsbD b then p.tBitSpace1 else p.tBitSpace0))) ∧
    Line.expand p (.frameW w) = .start 33#32 :: (Line.expand p .leadN ++ Line.expand p (.payload w)) ∧
    Line.expand p (.frame a c) = Line.expand p (.frameW ((~~~c) ++ c ++ (~~~a) ++ a)) ∧
    Line.expand p .rFrame = .start 1#32 :: Line.expand p .leadR ∧
    Line.expand p (.wait k) = List.replicate k .nop

/-! ### Runs that reset -/

/-- R213, R224: the check on a host program passes exactly when every `START` of it has a `RESET` somewhere before it.
Classifier lines, idle cycles and symbols may stand before that `RESET`. -/
def Obligations.CheckPassesIfEveryStartFollowsAReset : Prop :=
  ∀ ws : List PortWord, programResetsBeforeStart ws = true ↔
    ∀ (before rest : List PortWord) (w : PortWord) (n : Word), ws = before ++ w :: rest → decode w = .start n →
      ∃ v ∈ before, decode v = .reset

/-- R211, R213: a run in which a `RESET` occurs ends with the invariant, whatever the registers were at its beginning and
whatever the host drives before and after the `RESET`. -/
def Obligations.RunsThatResetHaveTheInvariant : Prop :=
  ∀ (s : State) (ws : List PortWord), (∃ w ∈ ws, decode w = .reset) → ∃ t, runWords ws s = .next t ∧ t.Inv
end

