-- ==== Sys2Proof/Laws/Decode.lean ====
section
/-! SUPPORT. Operation words as numbers and bytes: what a mask reads, and that writing a number in bytes loses none of it. -/

namespace Sys2Proof

/-! ### Masks -/

/-- Under a mask no wider than the low part, a concatenation shows its low part. -/
theorem append_toNat_and {n k m : Nat} (hi : BitVec n) (lo : BitVec k) (hm : m < 2 ^ k) :
    (hi ++ lo).toNat &&& m = lo.toNat &&& m := by
  apply Nat.eq_of_testBit_eq
  intro i
  rw [Nat.testBit_and, Nat.testBit_and]
  by_cases h : i < k
  · have : (hi ++ lo).toNat.testBit i = lo.toNat.testBit i := by
      rw [BitVec.testBit_toNat, BitVec.testBit_toNat, BitVec.getLsbD_append, if_pos h]
    rw [this]
  · have : m.testBit i = false :=
      Nat.testBit_lt_two_pow (Nat.lt_of_lt_of_le hm (Nat.pow_le_pow_right (by decide) (by omega)))
    simp [this]

/-- The number of an IFD word under a mask of `ctrl`'s three bits is `ctrl` under it. -/
theorem ifd_bits_and {m : Nat} (ctrl : BitVec 3) (count mark space : Word) (hm : m < 8) :
    (PortWord.ifd ctrl count mark space).bits &&& m = ctrl.toNat &&& m :=
  append_toNat_and _ ctrl hm

/-- The number of an IPC word under the mask of `role` shows that bit alone. -/
theorem ipc_bits_and (w : BitVec 65) :
    (PortWord.ipc w).bits &&& 2 ^ 64 = if w.getLsbD 64 then 2 ^ 64 else 0 := by
  show w.toNat &&& 2 ^ 64 = _
  rw [Nat.and_two_pow, BitVec.testBit_toNat]
  cases w.getLsbD 64 <;> simp

/-! ### The fields of an IPC word -/

theorem ipc_role (role : BitVec 1) (mark space : Word) :
    (role ++ mark ++ space : BitVec 65).getLsbD 64 = role.getLsbD 0 := by
  rw [BitVec.getLsbD_append, if_neg (by decide), BitVec.getLsbD_append, if_neg (by decide)]

theorem ipcMark_append (role : BitVec 1) (mark space : Word) : ipcMark (role ++ mark ++ space) = mark := by
  ext i hi
  simp only [ipcMark, BitVec.getElem_extractLsb', BitVec.getLsbD_append]
  rw [if_neg (by omega), if_pos (by omega), show 32 + i - 32 = i by omega, BitVec.getLsbD_eq_getElem hi]

theorem ipcSpace_append (role : BitVec 1) (mark space : Word) : ipcSpace (role ++ mark ++ space) = space := by
  ext i hi
  simp only [ipcSpace, BitVec.getElem_extractLsb', BitVec.getLsbD_append]
  rw [if_pos (by omega), show 0 + i = i by omega, BitVec.getLsbD_eq_getElem hi]

/-! ### Bytes -/

@[simp] theorem length_natToBytes (k n : Nat) : (natToBytes k n).length = k := by
  induction k generalizing n with
  | zero => rfl
  | succ k ih => simp [natToBytes, ih]

/-- Reading back the bytes of a number that fits in them. -/
theorem bytesToNat_natToBytes (k n : Nat) (h : n < 256 ^ k) : bytesToNat (natToBytes k n) = n := by
  induction k generalizing n with
  | zero => simp at h; simp [natToBytes, bytesToNat, h]
  | succ k ih =>
    have : n / 256 < 256 ^ k := by
      rw [Nat.div_lt_iff_lt_mul (by decide)]; simpa [Nat.pow_succ] using h
    simp only [natToBytes, bytesToNat, ih _ this, BitVec.toNat_ofNat]
    omega

end Sys2Proof
end

