-- ==== Sys2Proof/Laws/State.lean ====
section
/-! SUPPORT. One lemma per field per update of the state and of the decoder's registers, each true by unfolding, so that no
later proof unfolds an update. -/

namespace Sys2Proof.Machine

/-! ### Updates of the state -/

@[simp] theorem State.setDec_params (s : State) (d : Decoder) : (s.setDec d).params = s.params := rfl
@[simp] theorem State.setDec_dec (s : State) (d : Decoder) : (s.setDec d).dec = d := rfl
@[simp] theorem State.setDec_cls (s : State) (d : Decoder) : (s.setDec d).cls = s.cls := rfl
@[simp] theorem State.setDec_pending (s : State) (d : Decoder) : (s.setDec d).pending = s.pending := rfl
@[simp] theorem State.driveClassifier_params (s : State) (m sp : Word) (r : Role) : (s.driveClassifier m sp r).params = s.params := rfl
@[simp] theorem State.driveClassifier_dec (s : State) (m sp : Word) (r : Role) : (s.driveClassifier m sp r).dec = s.dec := rfl
@[simp] theorem State.driveClassifier_cls (s : State) (m sp : Word) (r : Role) : (s.driveClassifier m sp r).cls = ⟨m, sp, r⟩ := rfl
@[simp] theorem State.driveClassifier_pending (s : State) (m sp : Word) (r : Role) : (s.driveClassifier m sp r).pending = s.pending := rfl
@[simp] theorem State.setPending_params (s : State) (ws : List PortWord) : (s.setPending ws).params = s.params := rfl
@[simp] theorem State.setPending_dec (s : State) (ws : List PortWord) : (s.setPending ws).dec = s.dec := rfl
@[simp] theorem State.setPending_cls (s : State) (ws : List PortWord) : (s.setPending ws).cls = s.cls := rfl
@[simp] theorem State.setPending_pending (s : State) (ws : List PortWord) : (s.setPending ws).pending = ws := rfl
@[simp] theorem State.place_params (s : State) (w : PortWord) : (s.place w).params = s.params := rfl
@[simp] theorem State.place_dec (s : State) (w : PortWord) : (s.place w).dec = s.dec := rfl
@[simp] theorem State.place_cls (s : State) (w : PortWord) : (s.place w).cls = s.cls := rfl
@[simp] theorem State.place_pending (s : State) (w : PortWord) : (s.place w).pending = w :: s.pending := rfl

@[simp] theorem State.setPending_setPending (s : State) (ws vs : List PortWord) :
    (s.setPending ws).setPending vs = s.setPending vs := rfl
@[simp] theorem State.setPending_self (s : State) : s.setPending s.pending = s := rfl
@[simp] theorem State.setDec_self (s : State) : s.setDec s.dec = s := rfl
@[simp] theorem State.setDec_setDec (s : State) (d e : Decoder) : (s.setDec d).setDec e = s.setDec e := rfl
theorem State.setDec_setPending (s : State) (d : Decoder) (ws : List PortWord) :
    (s.setPending ws).setDec d = (s.setDec d).setPending ws := rfl

/-! ### Updates of the registers -/

@[simp] theorem Decoder.finish_st (d : Decoder) (r : Result) (e : Reason) : (d.finish r e).st = .idle := rfl
@[simp] theorem Decoder.finish_kind (d : Decoder) (r : Result) (e : Reason) : (d.finish r e).kind = d.kind := rfl
@[simp] theorem Decoder.finish_idx (d : Decoder) (r : Result) (e : Reason) : (d.finish r e).idx = d.idx := rfl
@[simp] theorem Decoder.finish_acc (d : Decoder) (r : Result) (e : Reason) : (d.finish r e).acc = d.acc := rfl
@[simp] theorem Decoder.finish_done (d : Decoder) (r : Result) (e : Reason) : (d.finish r e).done = true := rfl
@[simp] theorem Decoder.finish_result (d : Decoder) (r : Result) (e : Reason) : (d.finish r e).result = r := rfl
@[simp] theorem Decoder.finish_reason (d : Decoder) (r : Result) (e : Reason) : (d.finish r e).reason = e := rfl
@[simp] theorem Decoder.finish_badIndex (d : Decoder) (r : Result) (e : Reason) : (d.finish r e).badIndex = d.badIndex := rfl
@[simp] theorem Decoder.finish_cmd (d : Decoder) (r : Result) (e : Reason) : (d.finish r e).cmd = d.cmd := rfl
@[simp] theorem Decoder.finish_addr (d : Decoder) (r : Result) (e : Reason) : (d.finish r e).addr = d.addr := rfl
@[simp] theorem Decoder.finish_raw (d : Decoder) (r : Result) (e : Reason) : (d.finish r e).raw = d.raw := rfl

@[simp] theorem Decoder.clear_st (d : Decoder) : (d.clear).st = d.st := rfl
@[simp] theorem Decoder.clear_kind (d : Decoder) : (d.clear).kind = d.kind := rfl
@[simp] theorem Decoder.clear_idx (d : Decoder) : (d.clear).idx = 0#6 := rfl
@[simp] theorem Decoder.clear_acc (d : Decoder) : (d.clear).acc = 0#32 := rfl
@[simp] theorem Decoder.clear_done (d : Decoder) : (d.clear).done = d.done := rfl
@[simp] theorem Decoder.clear_result (d : Decoder) : (d.clear).result = d.result := rfl
@[simp] theorem Decoder.clear_reason (d : Decoder) : (d.clear).reason = d.reason := rfl
@[simp] theorem Decoder.clear_badIndex (d : Decoder) : (d.clear).badIndex = 0#6 := rfl
@[simp] theorem Decoder.clear_cmd (d : Decoder) : (d.clear).cmd = 0#8 := rfl
@[simp] theorem Decoder.clear_addr (d : Decoder) : (d.clear).addr = 0#8 := rfl
@[simp] theorem Decoder.clear_raw (d : Decoder) : (d.clear).raw = 0#32 := rfl

@[simp] theorem Decoder.awaitLead_st (d : Decoder) (k : Kind) : (d.awaitLead k).st = .lead := rfl
@[simp] theorem Decoder.awaitLead_kind (d : Decoder) (k : Kind) : (d.awaitLead k).kind = k := rfl
@[simp] theorem Decoder.awaitLead_idx (d : Decoder) (k : Kind) : (d.awaitLead k).idx = d.idx := rfl
@[simp] theorem Decoder.awaitLead_acc (d : Decoder) (k : Kind) : (d.awaitLead k).acc = d.acc := rfl
@[simp] theorem Decoder.awaitLead_done (d : Decoder) (k : Kind) : (d.awaitLead k).done = false := rfl
@[simp] theorem Decoder.awaitLead_result (d : Decoder) (k : Kind) : (d.awaitLead k).result = .none := rfl
@[simp] theorem Decoder.awaitLead_reason (d : Decoder) (k : Kind) : (d.awaitLead k).reason = .none := rfl
@[simp] theorem Decoder.awaitLead_badIndex (d : Decoder) (k : Kind) : (d.awaitLead k).badIndex = d.badIndex := rfl
@[simp] theorem Decoder.awaitLead_cmd (d : Decoder) (k : Kind) : (d.awaitLead k).cmd = d.cmd := rfl
@[simp] theorem Decoder.awaitLead_addr (d : Decoder) (k : Kind) : (d.awaitLead k).addr = d.addr := rfl
@[simp] theorem Decoder.awaitLead_raw (d : Decoder) (k : Kind) : (d.awaitLead k).raw = d.raw := rfl

@[simp] theorem Decoder.rejectBit_st (d : Decoder) : (d.rejectBit).st = .idle := rfl
@[simp] theorem Decoder.rejectBit_kind (d : Decoder) : (d.rejectBit).kind = d.kind := rfl
@[simp] theorem Decoder.rejectBit_idx (d : Decoder) : (d.rejectBit).idx = d.idx := rfl
@[simp] theorem Decoder.rejectBit_acc (d : Decoder) : (d.rejectBit).acc = d.acc := rfl
@[simp] theorem Decoder.rejectBit_done (d : Decoder) : (d.rejectBit).done = true := rfl
@[simp] theorem Decoder.rejectBit_result (d : Decoder) : (d.rejectBit).result = .invalid := rfl
@[simp] theorem Decoder.rejectBit_reason (d : Decoder) : (d.rejectBit).reason = .badPayloadBit := rfl
@[simp] theorem Decoder.rejectBit_badIndex (d : Decoder) : (d.rejectBit).badIndex = d.idx + 1#6 := rfl
@[simp] theorem Decoder.rejectBit_cmd (d : Decoder) : (d.rejectBit).cmd = d.cmd := rfl
@[simp] theorem Decoder.rejectBit_addr (d : Decoder) : (d.rejectBit).addr = d.addr := rfl
@[simp] theorem Decoder.rejectBit_raw (d : Decoder) : (d.rejectBit).raw = d.raw := rfl

@[simp] theorem Decoder.addBit_st (d : Decoder) (b : Bool) : (d.addBit b).st = d.st := rfl
@[simp] theorem Decoder.addBit_kind (d : Decoder) (b : Bool) : (d.addBit b).kind = d.kind := rfl
@[simp] theorem Decoder.addBit_idx (d : Decoder) (b : Bool) : (d.addBit b).idx = d.idx + 1#6 := rfl
@[simp] theorem Decoder.addBit_acc (d : Decoder) (b : Bool) :
    (d.addBit b).acc = d.acc ||| placedBit b d.idx.toNat := rfl
@[simp] theorem Decoder.addBit_done (d : Decoder) (b : Bool) : (d.addBit b).done = d.done := rfl
@[simp] theorem Decoder.addBit_result (d : Decoder) (b : Bool) : (d.addBit b).result = d.result := rfl
@[simp] theorem Decoder.addBit_reason (d : Decoder) (b : Bool) : (d.addBit b).reason = d.reason := rfl
@[simp] theorem Decoder.addBit_badIndex (d : Decoder) (b : Bool) : (d.addBit b).badIndex = d.badIndex := rfl
@[simp] theorem Decoder.addBit_cmd (d : Decoder) (b : Bool) : (d.addBit b).cmd = d.cmd := rfl
@[simp] theorem Decoder.addBit_addr (d : Decoder) (b : Bool) : (d.addBit b).addr = d.addr := rfl
@[simp] theorem Decoder.addBit_raw (d : Decoder) (b : Bool) : (d.addBit b).raw = d.raw := rfl

/-! ### The reset values -/

@[simp] theorem Decoder.resetValues_st : Decoder.resetValues.st = .idle := rfl
@[simp] theorem Decoder.resetValues_kind : Decoder.resetValues.kind = .kRepeat := rfl
@[simp] theorem Decoder.resetValues_idx : Decoder.resetValues.idx = 0#6 := rfl
@[simp] theorem Decoder.resetValues_acc : Decoder.resetValues.acc = 0#32 := rfl
@[simp] theorem Decoder.resetValues_done : Decoder.resetValues.done = false := rfl
@[simp] theorem Decoder.resetValues_result : Decoder.resetValues.result = .none := rfl
@[simp] theorem Decoder.resetValues_reason : Decoder.resetValues.reason = .none := rfl
@[simp] theorem Decoder.resetValues_badIndex : Decoder.resetValues.badIndex = 0#6 := rfl
@[simp] theorem Decoder.resetValues_cmd : Decoder.resetValues.cmd = 0#8 := rfl
@[simp] theorem Decoder.resetValues_addr : Decoder.resetValues.addr = 0#8 := rfl
@[simp] theorem Decoder.resetValues_raw : Decoder.resetValues.raw = 0#32 := rfl

@[simp] theorem State.reset_dec : State.reset.dec = Decoder.resetValues := rfl
@[simp] theorem State.reset_pending : State.reset.pending = [] := rfl

end Sys2Proof.Machine
end

