-- ==== Sys2Proof/Laws/Ops.lean ====
section
/-! SUPPORT. One lemma for each shared operation that says everything it can do, for provers to cite in place of unfolding
it. -/

namespace Sys2Proof.Machine

/-! ### Durations and classes -/

/-- The tolerance window with both ends written as bounds, clipped at 0 by natural subtraction. -/
theorem within_iff (p : Params) (o r : Word) :
    within p o r = true ↔ r.toNat - p.margin.toNat ≤ o.toNat ∧ o.toNat ≤ r.toNat + p.margin.toNat := by
  unfold within absdiff
  rw [decide_eq_true_eq]
  split <;> omega

theorem within_self (p : Params) (r : Word) : within p r r = true := by
  rw [within_iff]; omega

/-- Role lead gives one of three classes, each under exactly one condition. -/
theorem classifyAsLead_cases (p : Params) (m s : Word) :
    (within p m p.tLeadMark = true ∧ within p s p.tLeadSpaceNormal = true ∧ classifyAsLead p m s = .leadNormal) ∨
    (within p m p.tLeadMark = true ∧ within p s p.tLeadSpaceNormal = false ∧ within p s p.tLeadSpaceRepeat = true ∧
      classifyAsLead p m s = .leadRepeat) ∨
    ((within p m p.tLeadMark = false ∨
      (within p s p.tLeadSpaceNormal = false ∧ within p s p.tLeadSpaceRepeat = false)) ∧
      classifyAsLead p m s = .unrecognized) := by
  unfold classifyAsLead
  cases within p m p.tLeadMark <;> cases within p s p.tLeadSpaceNormal <;>
    cases within p s p.tLeadSpaceRepeat <;> simp

/-- Role bit gives one of three classes, each under exactly one condition. -/
theorem classifyAsBit_cases (p : Params) (m s : Word) :
    (within p m p.tBitMark = true ∧ within p s p.tBitSpace0 = true ∧ classifyAsBit p m s = .bit0) ∨
    (within p m p.tBitMark = true ∧ within p s p.tBitSpace0 = false ∧ within p s p.tBitSpace1 = true ∧
      classifyAsBit p m s = .bit1) ∨
    ((within p m p.tBitMark = false ∨ (within p s p.tBitSpace0 = false ∧ within p s p.tBitSpace1 = false)) ∧
      classifyAsBit p m s = .unrecognized) := by
  unfold classifyAsBit
  cases within p m p.tBitMark <;> cases within p s p.tBitSpace0 <;> cases within p s p.tBitSpace1 <;> simp

/-- A recognized payload symbol is a `BIT0` or a `BIT1`. -/
theorem classify_bit_recognized (p : Params) (m s : Word) (h : classify p m s .bit ≠ .unrecognized) :
    classify p m s .bit = .bit0 ∨ classify p m s .bit = .bit1 := by
  rcases classifyAsBit_cases p m s with h' | h' | h' <;> simp_all [classify]

/-! ### The payload word -/

/-- A placed bit stands at its own position and nowhere else. -/
theorem getLsbD_placedBit (bit : Bool) (b i : Nat) :
    (placedBit bit b).getLsbD i = (decide (i < 32) && decide (i = b) && bit) := by
  unfold placedBit
  simp only [BitVec.getLsbD_shiftLeft, BitVec.getLsbD_setWidth, BitVec.getLsbD_ofBool]
  by_cases h : i < b
  · have : ¬ i = b := by omega
    simp [h, this]
  · by_cases h2 : i = b <;> simp [h2, h]
    · intro _ _ h3; omega

/-- The complement check bit by bit (R143). -/
theorem complementOk_iff (w : Word) :
    complementOk w = true ↔ ∀ b < 8, w.getLsbD (8 + b) = !w.getLsbD b ∧ w.getLsbD (24 + b) = !w.getLsbD (16 + b) := by
  simp only [complementOk, addressOf, addressComplementOf, commandOf, commandComplementOf, Bool.and_eq_true,
    beq_iff_eq]
  constructor
  · rintro ⟨ha, hc⟩ b hb
    have h1 := congrArg (·.getLsbD b) ha
    have h2 := congrArg (·.getLsbD b) hc
    simp [hb] at h1 h2
    exact ⟨h1, h2⟩
  · intro h
    constructor <;> (ext b hb; have := h b hb; simp_all)

/-- Four bytes as one word, bit by bit. -/
theorem getLsbD_bytes (a b c d : Byte) (i : Nat) :
    (a ++ b ++ c ++ d : Word).getLsbD i =
      if i < 8 then d.getLsbD i else if i < 16 then c.getLsbD (i - 8)
      else if i < 24 then b.getLsbD (i - 16) else a.getLsbD (i - 24) := by
  rw [BitVec.getLsbD_append]
  by_cases h0 : i < 8
  · rw [if_pos h0, if_pos h0]
  · rw [if_neg h0, if_neg h0, BitVec.getLsbD_append]
    by_cases h1 : i < 16
    · rw [if_pos (by omega), if_pos h1]
    · rw [if_neg (by omega), if_neg h1, BitVec.getLsbD_append]
      by_cases h2 : i < 24
      · rw [if_pos (by omega), if_pos h2, show i - 8 - 8 = i - 16 by omega]
      · rw [if_neg (by omega), if_neg h2, show i - 8 - 8 - 8 = i - 24 by omega]

theorem addressOf_bytes (a b c d : Byte) : addressOf (a ++ b ++ c ++ d) = d := by
  ext i hi
  simp only [addressOf, BitVec.getElem_extractLsb', getLsbD_bytes]
  rw [if_pos (by omega), Nat.zero_add, BitVec.getLsbD_eq_getElem hi]

theorem addressComplementOf_bytes (a b c d : Byte) : addressComplementOf (a ++ b ++ c ++ d) = c := by
  ext i hi
  simp only [addressComplementOf, BitVec.getElem_extractLsb', getLsbD_bytes]
  rw [if_neg (by omega), if_pos (by omega), show 8 + i - 8 = i by omega, BitVec.getLsbD_eq_getElem hi]

theorem commandOf_bytes (a b c d : Byte) : commandOf (a ++ b ++ c ++ d) = b := by
  ext i hi
  simp only [commandOf, BitVec.getElem_extractLsb', getLsbD_bytes]
  rw [if_neg (by omega), if_neg (by omega), if_pos (by omega), show 16 + i - 16 = i by omega,
    BitVec.getLsbD_eq_getElem hi]

theorem commandComplementOf_bytes (a b c d : Byte) : commandComplementOf (a ++ b ++ c ++ d) = a := by
  ext i hi
  simp only [commandComplementOf, BitVec.getElem_extractLsb', getLsbD_bytes]
  rw [if_neg (by omega), if_neg (by omega), if_neg (by omega), show 24 + i - 24 = i by omega,
    BitVec.getLsbD_eq_getElem hi]

/-! ### The decoder's registers -/

/-- Everything the end of a payload can do. -/
theorem Decoder.validate_cases (d : Decoder) :
    (complementOk d.acc = true ∧
      d.validate = { d with raw := d.acc, cmd := commandOf d.acc, addr := addressOf d.acc }.finish .command .none) ∨
    (complementOk d.acc = false ∧ d.validate = { d with raw := d.acc }.finish .invalid .complementMismatch) := by
  unfold Decoder.validate
  cases complementOk d.acc <;> simp

@[simp] theorem Decoder.validate_st (d : Decoder) : d.validate.st = .idle := by
  rcases d.validate_cases with ⟨_, e⟩ | ⟨_, e⟩ <;> rw [e] <;> rfl

/-- Everything accepting a payload bit can do. -/
theorem Decoder.acceptBit_cases (d : Decoder) (bit : Bool) :
    (d.idx ≠ 31#6 ∧ d.acceptBit bit = d.addBit bit) ∨ (d.idx = 31#6 ∧ d.acceptBit bit = (d.addBit bit).validate) := by
  unfold Decoder.acceptBit
  by_cases h : d.idx = 31#6
  · exact .inr ⟨h, if_pos h⟩
  · exact .inl ⟨h, if_neg h⟩

/-- The index of a payload symbol does not wrap in a state a reset leads to. -/
theorem idx_add_one_toNat (i : BitVec 6) (h : i.toNat ≤ 31) : (i + 1#6).toNat = i.toNat + 1 := by
  simp only [BitVec.toNat_add, BitVec.toNat_ofNat]
  omega

theorem kindOfCount_eq_none_iff (n : Word) : kindOfCount n = none ↔ n ≠ 1#32 ∧ n ≠ 33#32 := by
  unfold kindOfCount
  by_cases h1 : n = 1#32
  · simp [h1]
  · by_cases h2 : n = 33#32 <;> simp [h1, h2]

/-- Everything `START` can do, with every register it leaves (R134, R135). -/
theorem Decoder.start_cases (d : Decoder) (n : Word) :
    (n = 1#32 ∧ d.start n = ⟨.lead, .kRepeat, 0#6, 0#32, false, .none, .none, 0#6, 0#8, 0#8, 0#32⟩) ∨
    (n = 33#32 ∧ d.start n = ⟨.lead, .kNormal, 0#6, 0#32, false, .none, .none, 0#6, 0#8, 0#8, 0#32⟩) ∨
    (n ≠ 1#32 ∧ n ≠ 33#32 ∧ d.start n = ⟨.idle, .kRepeat, 0#6, 0#32, true, .invalid, .wrongSymbolCount, 0#6, 0#8, 0#8, 0#32⟩) := by
  by_cases h1 : n = 1#32
  · subst h1; exact .inl ⟨rfl, rfl⟩
  · by_cases h2 : n = 33#32
    · subst h2; exact .inr (.inl ⟨rfl, rfl⟩)
    · refine .inr (.inr ⟨h1, h2, ?_⟩)
      unfold Decoder.start
      rw [(kindOfCount_eq_none_iff n).2 ⟨h1, h2⟩]
      rfl

/-- Everything a presented symbol can do (R137). -/
theorem Decoder.sym_cases (d : Decoder) (p : Params) (m s : Word) :
    (d.st = .idle ∧ d.sym p m s = d) ∨
    (d.st = .lead ∧ d.kind = .kRepeat ∧ classify p m s .lead = .leadRepeat ∧
      d.sym p m s = d.finish .repeated .none) ∨
    (d.st = .lead ∧ d.kind = .kNormal ∧ classify p m s .lead = .leadNormal ∧
      d.sym p m s = { d with st := .payload }) ∨
    (d.st = .lead ∧ (d.kind = .kRepeat → classify p m s .lead ≠ .leadRepeat) ∧
      (d.kind = .kNormal → classify p m s .lead ≠ .leadNormal) ∧ d.sym p m s = d.finish .invalid .badLeadMarker) ∨
    (d.st = .payload ∧ classify p m s .bit = .unrecognized ∧ d.sym p m s = d.rejectBit) ∨
    (d.st = .payload ∧ classify p m s .bit ≠ .unrecognized ∧
      d.sym p m s = d.acceptBit (bitVal (classify p m s .bit))) := by
  unfold Decoder.sym
  cases hst : d.st
  · simp
  · cases hk : d.kind
    · by_cases h : classify p m s .lead = .leadRepeat <;> simp [Decoder.symLeadRepeat, h]
    · by_cases h : classify p m s .lead = .leadNormal <;> simp [Decoder.symLeadNormal, h, hk]
  · by_cases h : classify p m s .bit = .unrecognized <;> simp [Decoder.symPayload, h]

end Sys2Proof.Machine
end

