-- ==== Sys2Proof/Laws/PerInstr.lean ====
section
/-! SUPPORT. What holds of every operation as syntax, one lemma per constructor. -/

namespace Sys2Proof.Laws.TableRow

/-- The word of an operation is selected by a row of the opcode table that has the operation's mnemonic (R70, R74). -/
def Statement (i : Instr) : Prop :=
  ∃ r ∈ opcodeTable, r.mnemonic = i.mnemonic ∧ r.selects (encode i) = true

theorem classifyLead (mark space : Word) : Statement (.classifyLead mark space) :=
  ⟨_, .head _, rfl, by
    simp only [TableRow.selects, encode, ipcWord, ipc_bits_and, ipc_role]
    rfl⟩

theorem classifyBit (mark space : Word) : Statement (.classifyBit mark space) :=
  ⟨_, .tail _ (.head _), rfl, by
    simp only [TableRow.selects, encode, ipcWord, ipc_bits_and, ipc_role]
    rfl⟩

theorem reset : Statement .reset :=
  ⟨_, .tail _ (.tail _ (.head _)), rfl, by decide⟩

theorem start (count : Word) : Statement (.start count) :=
  ⟨_, .tail _ (.tail _ (.tail _ (.head _))), rfl, by
    simp only [TableRow.selects, encode, ifd_bits_and _ _ _ _ (show (0b110 : Nat) < 8 by decide)]
    rfl⟩

theorem sym (mark space : Word) : Statement (.sym mark space) :=
  ⟨_, .tail _ (.tail _ (.tail _ (.tail _ (.head _)))), rfl, by
    simp only [TableRow.selects, encode, ifd_bits_and _ _ _ _ (show (0b111 : Nat) < 8 by decide)]
    rfl⟩

theorem nop : Statement .nop :=
  ⟨_, .tail _ (.tail _ (.tail _ (.tail _ (.tail _ (.head _))))), rfl, by decide⟩

end Sys2Proof.Laws.TableRow
end

