-- ==== Sys2Proof/Laws/Step.lean ====
section
/-! SUPPORT. What one operation and one step can do, and how a run of a host program unfolds. -/

namespace Sys2Proof.Machine

/-- Everything an operation can do: it always answers a next state. -/
theorem exec_cases {i : Instr} {s t : State} (h : exec i s = .next t) :
    (∃ m sp, i = .classifyLead m sp ∧ t = s.driveClassifier m sp .lead) ∨
    (∃ m sp, i = .classifyBit m sp ∧ t = s.driveClassifier m sp .bit) ∨
    (i = .reset ∧ t = s.setDec Decoder.resetValues) ∨
    (∃ n, i = .start n ∧ t = s.setDec (s.dec.start n)) ∨
    (∃ m sp, i = .sym m sp ∧ t = s.setDec (s.dec.sym s.params m sp)) ∨
    (i = .nop ∧ t = s) := by
  cases i <;>
    simp only [exec, execClassifyLead, execClassifyBit, execReset, execStart, execSym, execNop,
      Host.Outcome.next.injEq] at h <;> subst h <;> simp

/-- The next state of an operation. -/
def after (i : Instr) (s : State) : State :=
  match i with
  | .classifyLead m sp => s.driveClassifier m sp .lead
  | .classifyBit m sp => s.driveClassifier m sp .bit
  | .reset => s.setDec Decoder.resetValues
  | .start n => s.setDec (s.dec.start n)
  | .sym m sp => s.setDec (s.dec.sym s.params m sp)
  | .nop => s

theorem exec_eq_after (i : Instr) (s : State) : exec i s = .next (after i s) := by cases i <;> rfl

@[simp] theorem after_params (i : Instr) (s : State) : (after i s).params = s.params := by cases i <;> rfl
@[simp] theorem after_pending (i : Instr) (s : State) : (after i s).pending = s.pending := by cases i <;> rfl

/-- No operation looks at the operations still to come. -/
theorem after_setPending (i : Instr) (s : State) (ws : List PortWord) :
    after i (s.setPending ws) = (after i s).setPending ws := by cases i <;> rfl

/-! ### One step -/

theorem step_cons {s : State} {w : PortWord} {rest : List PortWord} (h : s.pending = w :: rest) :
    step s = exec (decode w) (s.setPending rest) := by
  simp [step, State.fetch, h]

theorem step_nil {s : State} (h : s.pending = []) : step s = .next s := by
  simp only [step, State.fetch, h]; rfl

theorem step_place (s : State) (w : PortWord) : step (s.place w) = exec (decode w) s := by
  rw [step_cons (State.place_pending s w)]; rfl

/-- Everything a step can do. -/
theorem step_cases {s t : State} (h : step s = .next t) :
    (s.pending = [] ∧ t = s) ∨
    (∃ w rest, s.pending = w :: rest ∧ t = after (decode w) (s.setPending rest)) := by
  cases hp : s.pending with
  | nil => rw [step_nil hp] at h; cases h; exact .inl ⟨rfl, rfl⟩
  | cons w rest =>
    rw [step_cons hp, exec_eq_after] at h
    cases h
    exact .inr ⟨w, rest, rfl, rfl⟩

/-! ### Runs -/

/-- The state after a list of operation words. -/
def afterWords (ws : List PortWord) (s : State) : State := ws.foldl (fun s w => after (decode w) s) s

@[simp] theorem afterWords_nil (s : State) : afterWords [] s = s := rfl
@[simp] theorem afterWords_cons (w : PortWord) (ws : List PortWord) (s : State) :
    afterWords (w :: ws) s = afterWords ws (after (decode w) s) := rfl
theorem afterWords_append (ws vs : List PortWord) (s : State) :
    afterWords (ws ++ vs) s = afterWords vs (afterWords ws s) := by simp [afterWords]

@[simp] theorem afterWords_params (ws : List PortWord) (s : State) : (afterWords ws s).params = s.params := by
  induction ws generalizing s with
  | nil => rfl
  | cons w ws ih => simp [ih]

theorem afterWords_setPending (ws vs : List PortWord) (s : State) :
    afterWords ws (s.setPending vs) = (afterWords ws s).setPending vs := by
  induction ws generalizing s with
  | nil => rfl
  | cons w ws ih => simp [after_setPending, ih]

/-- A run goes on from the next state its first step answers. -/
theorem run_succ_next (M : Host.Core) (k : Nat) (s t : M.State) (h : M.step s = .next t) :
    M.run (k + 1) s = M.run k t := by
  simp only [Host.Core.run, h]

/-- A run of a host program answers the state after its words, with nothing left to send. -/
theorem runWords_eq (ws : List PortWord) (s : State) :
    runWords ws s = .next ((afterWords ws s).setPending []) := by
  unfold runWords
  induction ws generalizing s with
  | nil => rfl
  | cons w ws ih =>
    have hs : step (s.setPending (w :: ws)) = .next ((after (decode w) s).setPending ws) := by
      rw [step_cons (State.setPending_pending s (w :: ws)), exec_eq_after, State.setPending_setPending,
        after_setPending]
    rw [List.length_cons, run_succ_next Sys2Proof.core _ _ _ hs, ih]
    rfl

/-! ### One window -/

/-- The decoder's registers after a list of symbols, one presented in each cycle. -/
def Decoder.feed (p : Params) (l : List PulseSymbol) (d : Decoder) : Decoder :=
  l.foldl (fun d x => d.sym p x.mark x.space) d

@[simp] theorem Decoder.feed_nil (p : Params) (d : Decoder) : Decoder.feed p [] d = d := rfl
@[simp] theorem Decoder.feed_cons (p : Params) (x : PulseSymbol) (l : List PulseSymbol) (d : Decoder) :
    Decoder.feed p (x :: l) d = Decoder.feed p l (d.sym p x.mark x.space) := rfl

theorem Decoder.feed_append (p : Params) (l k : List PulseSymbol) (d : Decoder) :
    Decoder.feed p (l ++ k) d = Decoder.feed p k (Decoder.feed p l d) := by simp [Decoder.feed]

/-- While `IDLE` no symbol is taken. -/
theorem Decoder.feed_idle (p : Params) (l : List PulseSymbol) (d : Decoder) (h : d.st = .idle) :
    Decoder.feed p l d = d := by
  induction l with
  | nil => rfl
  | cons x l ih => rw [Decoder.feed_cons, show d.sym p x.mark x.space = d by simp [Decoder.sym, h], ih]

/-- A quiet word changes the decoder as the symbol it presents does, or not at all. -/
theorem after_quiet_dec (w : PortWord) (s : State) (h : isQuiet w = true) :
    (after (decode w) s).dec = Decoder.feed s.params (presentedSymbols [w]) s.dec := by
  cases w with
  | ipc w => simp only [decode, decodeIpc, presentedSymbols]; split <;> rfl
  | ifd ctrl count mark space =>
    simp only [isQuiet, Bool.and_eq_true, Bool.not_eq_true'] at h
    simp only [decode, decodeIfd, h.1, h.2, presentedSymbols]
    cases ctrl.getLsbD 0 <;> rfl

theorem presentedSymbols_cons (w : PortWord) (ws : List PortWord) :
    presentedSymbols (w :: ws) = presentedSymbols [w] ++ presentedSymbols ws := by
  cases w with
  | ipc w => rfl
  | ifd ctrl count mark space => simp only [presentedSymbols]; split <;> rfl

/-- Of quiet words only the presented symbols reach the decoder's registers. -/
theorem afterWords_quiet_dec (ws : List PortWord) (s : State) (h : ∀ w ∈ ws, isQuiet w = true) :
    (afterWords ws s).dec = Decoder.feed s.params (presentedSymbols ws) s.dec := by
  induction ws generalizing s with
  | nil => rfl
  | cons w ws ih =>
    rw [afterWords_cons, ih _ (fun v hv => h v (List.mem_cons_of_mem _ hv)), after_params,
      after_quiet_dec w s (h w List.mem_cons_self), presentedSymbols_cons w ws, Decoder.feed_append]

end Sys2Proof.Machine
end

