-- ==== Sys2Proof/Tests/Slice0.lean ====
section
/-! SUPPORT. Tests of single operations with expected values taken from spec/, smoke tests of the checks, and for every
statement that has hypotheses a witness that meets them. A vector's id is that of 95_test_vectors.md. -/

namespace Sys2Proof.Tests

open Sys2Proof.Machine

/-! ### Small states -/

/-- The default references with a margin of 200, as the vectors have them. -/
abbrev p200 : Params := Params.nominal 200#32

/-- A machine with the given margin and decoder registers, nothing driven and nothing pending. -/
abbrev machine (margin : Word) (d : Decoder) : State := ⟨Params.nominal margin, d, ClassifierPorts.initial, []⟩

/-- A decoder waiting for symbol 0. -/
abbrev awaiting (k : Kind) : Decoder := ⟨.lead, k, 0#6, 0#32, false, .none, .none, 0#6, 0#8, 0#8, 0#32⟩

/-- A decoder in the payload of a normal frame. -/
abbrev inPayload (idx : BitVec 6) (acc : Word) : Decoder :=
  ⟨.payload, .kNormal, idx, acc, false, .none, .none, 0#6, 0#8, 0#8, 0#32⟩

/-- A decoder that holds the result of P1. -/
abbrev holdsCommand : Decoder :=
  ⟨.idle, .kNormal, 32#6, 0xE916FF00#32, true, .command, .none, 0#6, 0x16#8, 0x00#8, 0xE916FF00#32⟩

/-! ### Words written out from the encodings (R70, R73, R74) -/

/-- `role` 0, `mark` 9000 = 0x2328, `space` 4500 = 0x1194. -/
theorem test_decode_classify_lead :
    decode (.ipc 0b0_00000000000000000010001100101000_00000000000000000001000110010100#65)
      = .classifyLead 9000#32 4500#32 := by decide

/-- `role` 1, `mark` 560 = 0x230, `space` 1690 = 0x69A. -/
theorem test_decode_classify_bit :
    decode (.ipc 0b1_00000000000000000000001000110000_00000000000000000000011010011010#65)
      = .classifyBit 560#32 1690#32 := by decide

/-- `ctrl` = 1xx, whatever the other bits and the buses carry. -/
theorem test_decode_reset :
    decode (.ifd 0b100#3 0#32 0#32 0#32) = .reset ∧ decode (.ifd 0b111#3 1#32 2#32 3#32) = .reset := by decide

/-- `ctrl` = 01x: `011` is a `START` (R74). -/
theorem test_decode_start :
    decode (.ifd 0b010#3 0x00000021#32 0#32 0#32) = .start 33#32 ∧
    decode (.ifd 0b011#3 0x00000021#32 9000#32 4500#32) = .start 33#32 := by decide

/-- `ctrl` = 001, operands of P1 edge 3. -/
theorem test_decode_sym :
    decode (.ifd 0b001#3 7#32 0x00002328#32 0x00001194#32) = .sym 9000#32 4500#32 := by decide

/-- `ctrl` = 000. -/
theorem test_decode_nop : decode (.ifd 0b000#3 5#32 6#32 7#32) = .nop := by decide

/-- Opcode-table words: an IPC row's 65 bits in nine bytes, an IFD row's three bits in one. -/
theorem test_decode_table_word :
    decodeTableWord 72 0x1000002300000069A = some (.classifyBit 560#32 1690#32) ∧
    decodeTableWord 72 0x00000232800001194 = some (.classifyLead 9000#32 4500#32) ∧
    decodeTableWord 8 0b100 = some .reset ∧ decodeTableWord 8 0b010 = some (.start 0#32) ∧
    decodeTableWord 8 0b001 = some (.sym 0#32 0#32) ∧ decodeTableWord 8 0b000 = some .nop := by decide

/-- A number with a bit above its format is refused, within the container and above it (log 10). -/
theorem test_table_word_too_wide :
    decodeTableWord 72 (2 ^ 65) = none ∧ decodeTableWord 72 (2 ^ 72) = none ∧ decodeTableWord 8 (2 ^ 99) = none ∧
    decodeTableWord 8 (2 ^ 104 + 4) = none := by decide

/-! ### Smoke tests of the checks -/

/-- R216: `ctrl` = 011 breaks the host's duty. -/
theorem test_check_refuses_start_with_symbol :
    (PortWord.ifd 0b011#3 33#32 9000#32 4500#32).keepsStartDuty = false := by decide

/-- R213: a `START` with no `RESET` before it, at once and after a classifier line, an idle cycle and a symbol. -/
theorem test_check_refuses_start_before_reset :
    programResetsBeforeStart [encode (.start 33#32), encode .reset] = false ∧
    programResetsBeforeStart
      [encode (.classifyBit 560#32 560#32), encode .nop, encode (.sym 560#32 560#32), encode (.start 33#32)] = false := by
  decide

/-- R213, R224 ask for a `RESET` before the first `START` and for nothing before the `RESET`. -/
theorem test_check_accepts_idle_cycles_before_reset :
    programResetsBeforeStart [encode .nop, encode (.sym 560#32 560#32), encode .reset, encode (.start 33#32)] = true := by
  decide

/-- A whole program is refused for either duty, and one that keeps both passes. -/
theorem test_check_of_programs :
    programWellFormed [encode .reset, .ifd 0b011#3 33#32 9000#32 4500#32] = false ∧
    programWellFormed [encode .nop, encode (.start 33#32)] = false ∧
    programWellFormed [encode .nop, encode .reset, encode (.start 33#32), encode (.sym 9000#32 4500#32)] = true := by decide

/-- No operation is ill-formed (R76, R81): the greatest operands pass. -/
theorem test_check_accepts_extreme_operands :
    (Instr.start 0xFFFFFFFF#32).wellFormed = true ∧ (Instr.sym 0#32 0xFFFFFFFF#32).wellFormed = true := by decide

/-- A container that is one byte short, and one with bit 65 set. -/
theorem test_container_refused_by_name :
    decodeBytes .ipc [0#8, 0#8, 0#8, 0#8, 0#8, 0#8, 0#8, 0#8] = .error .wrongLength ∧
    decodeBytes .ipc [0#8, 0#8, 0#8, 0#8, 0#8, 0#8, 0#8, 0#8, 2#8] = .error .paddingSet := ⟨rfl, rfl⟩

/-! ### One step of each operation -/

/-- V-C21: overlapping lead windows, `LEAD_NORMAL` wins; V-C23: one below the repeat window. -/
theorem test_classify_lead_overlap :
    (∃ t, exec (.classifyLead 9000#32 3375#32) (machine 1200#32 holdsCommand) = .next t ∧ t.outputs.classO = 1#3) ∧
    (∃ t, exec (.classifyLead 9000#32 1049#32) (machine 1200#32 holdsCommand) = .next t ∧ t.outputs.classO = 0#3) :=
  ⟨⟨_, rfl, by decide⟩, ⟨_, rfl, by decide⟩⟩

/-- W5: both ends of the repeat window and one past its upper end; V-C6: the greatest durations do not wrap. -/
theorem test_classify_lead_bounds :
    (machine 200#32 holdsCommand |>.driveClassifier 9200#32 2450#32 .lead).outputs.classO = 2#3 ∧
    (machine 200#32 holdsCommand |>.driveClassifier 9000#32 2451#32 .lead).outputs.classO = 0#3 ∧
    (machine 200#32 holdsCommand |>.driveClassifier 0xFFFFFFFF#32 0xFFFFFFFF#32 .lead).outputs.classO = 0#3 := by decide

/-- V-C17: overlapping bit windows, `BIT0` wins; V-C19: the upper bound of `BIT1`. -/
theorem test_classify_bit_overlap :
    (∃ t, exec (.classifyBit 560#32 1125#32) (machine 600#32 holdsCommand) = .next t ∧ t.outputs.classO = 3#3) ∧
    (∃ t, exec (.classifyBit 560#32 2290#32) (machine 600#32 holdsCommand) = .next t ∧ t.outputs.classO = 4#3) :=
  ⟨⟨_, rfl, by decide⟩, ⟨_, rfl, by decide⟩⟩

/-- V-C18: the window is clipped at 0; V-C25: every duration matches; V-C14: one off at a margin of 0. -/
theorem test_classify_bit_clip :
    (machine 600#32 holdsCommand |>.driveClassifier 0#32 0#32 .bit).outputs.classO = 3#3 ∧
    (machine 0xFFFFFFFF#32 holdsCommand |>.driveClassifier 0xFFFFFFFF#32 0xFFFFFFFF#32 .bit).outputs.classO = 3#3 ∧
    (machine 0#32 holdsCommand |>.driveClassifier 561#32 560#32 .bit).outputs.classO = 0#3 := by decide

/-- V-F8: `RESET` beats a `START` in the same cycle, and abandons the window. -/
theorem test_reset_beats_start :
    ∃ t, step ((machine 200#32 (inPayload 3#6 5#32)).place (.ifd 0b110#3 1#32 0#32 0#32)) = .next t ∧
      t.dec = ⟨.idle, .kRepeat, 0#6, 0#32, false, .none, .none, 0#6, 0#8, 0#8, 0#32⟩ := ⟨_, rfl, by decide⟩

/-- V-F3: a wrong count is reported at the `START` edge. -/
theorem test_start_wrong_count :
    ∃ t, exec (.start 7#32) (machine 200#32 Decoder.resetValues) = .next t ∧
      t.dec = ⟨.idle, .kRepeat, 0#6, 0#32, true, .invalid, .wrongSymbolCount, 0#6, 0#8, 0#8, 0#32⟩ :=
  ⟨_, rfl, by decide⟩

/-- V-F6 and V-F11: `START` with a symbol in the same cycle does not take it, and clears the held result. -/
theorem test_start_does_not_take_symbol :
    ∃ t, step ((machine 200#32 holdsCommand).place (.ifd 0b011#3 33#32 9000#32 4500#32)) = .next t ∧
      t.dec = ⟨.lead, .kNormal, 0#6, 0#32, false, .none, .none, 0#6, 0#8, 0#8, 0#32⟩ := ⟨_, rfl, by decide⟩

/-- V-F12: the 32nd payload bit completes the word and validates at the same edge. -/
theorem test_sym_last_bit :
    ∃ t, exec (.sym 560#32 1690#32) (machine 200#32 (inPayload 31#6 0x6916FF00#32)) = .next t ∧ t.dec = holdsCommand :=
  ⟨_, rfl, by decide⟩

/-- R140's example: symbol 5 is (560, 1000). -/
theorem test_sym_bad_payload_bit :
    ∃ t, exec (.sym 560#32 1000#32) (machine 200#32 (inPayload 4#6 0#32)) = .next t ∧
      t.dec = ⟨.idle, .kNormal, 4#6, 0#32, true, .invalid, .badPayloadBit, 5#6, 0#8, 0#8, 0#32⟩ := ⟨_, rfl, by decide⟩

/-- V-F5: `NOP` in `PAYLOAD` changes no register. -/
theorem test_nop_keeps_registers :
    ∃ t, step ((machine 200#32 (inPayload 0#6 0#32)).place (.ifd 0b000#3 0#32 0#32 0#32)) = .next t ∧
      t = machine 200#32 (inPayload 0#6 0#32) := ⟨_, rfl, rfl⟩

/-! ### The textual syntax (R83, R84) -/

/-- `SYM 9000, 0x1194 ; LEADN`: decimal, hexadecimal and a comment. -/
theorem test_assembler_sym :
    parseLine ['S', 'Y', 'M', ' ', '9', '0', '0', '0', ',', ' ', '0', 'x', '1', '1', '9', '4', ' ', ';', 'L']
      = .ok (some (.op (.sym 9000#32 4500#32))) := rfl

/-- A line of only a comment is no operation, and a misspelt one is refused by name. -/
theorem test_assembler_refuses :
    parseLine [';', 'x'] = .ok none ∧ parseLine ['S', 'Y', 'N'] = .error .unknownOperation ∧
    parseLine ['S', 'T', 'A', 'R', 'T', ' ', '3', 'x'] = .error .badNumber ∧
    parseLine ['S', 'T', 'A', 'R', 'T', ' ', '0', 'x', '1', '0', '0', '0', '0', '0', '0', '0', '0'] = .error .outOfRange :=
  ⟨rfl, rfl, rfl, rfl⟩

/-! ### Lemmas for the witnesses of the invariant -/

/-- A word below a power of two has no bit from there up. -/
theorem no_bit_above (w : Word) (n : Nat) (h : w.toNat < 2 ^ n) : ∀ b : Nat, n ≤ b → w.getLsbD b = false := by
  intro b hb
  rw [← BitVec.testBit_toNat]
  exact Nat.testBit_lt_two_pow (Nat.lt_of_lt_of_le h (Nat.pow_le_pow_right (by decide) hb))

theorem inv_awaiting (k : Kind) : (awaiting k).Inv :=
  ⟨Nat.zero_le _, no_bit_above 0#32 0 (by decide), ⟨rfl, rfl, rfl, rfl, rfl, rfl, rfl⟩, rfl⟩

theorem inv_inPayload (idx : BitVec 6) (acc : Word) (hi : idx.toNat ≤ 31) (ha : acc.toNat < 2 ^ idx.toNat) :
    (inPayload idx acc).Inv :=
  ⟨Nat.le_trans hi (by decide), no_bit_above _ _ ha, ⟨rfl, rfl, rfl, rfl, rfl, rfl, rfl⟩, rfl, hi⟩

theorem inv_holdsCommand : holdsCommand.Inv :=
  ⟨by decide, no_bit_above _ _ (by decide), .inl ⟨rfl, by decide, rfl, by decide, by decide, rfl, rfl⟩⟩

/-! ### Witnesses: encoding -/

/-- `EveryCtrlValueSelectsOneOperation`: both ends of each clause's values. -/
theorem witness_every_ctrl_value :
    (0b100#3).getLsbD 2 = true ∧ (0b111#3).getLsbD 2 = true ∧
    ((0b010#3).getLsbD 2 = false ∧ (0b010#3).getLsbD 1 = true) ∧
    ((0b011#3).getLsbD 2 = false ∧ (0b011#3).getLsbD 1 = true) ∧ 0b001#3 = 0b001#3 ∧ 0b000#3 = 0b000#3 := by decide

/-- `UnreadBusesAreIgnored`. -/
theorem witness_unread_buses :
    ((0b111#3).getLsbD 2 = true ∨ 0b111#3 = 0b000#3) ∧ ((0b000#3).getLsbD 2 = true ∨ 0b000#3 = 0b000#3) ∧
    ((0b011#3).getLsbD 2 = false ∧ (0b011#3).getLsbD 1 = true) ∧ 0b001#3 = 0b001#3 := by decide

/-- `DecodeOfEncodeIsTheOperation`: every constructor. -/
theorem witness_well_formed :
    (Instr.classifyLead 0#32 0xFFFFFFFF#32).wellFormed = true ∧ (Instr.classifyBit 0#32 0#32).wellFormed = true ∧
    Instr.reset.wellFormed = true ∧ (Instr.start 0#32).wellFormed = true ∧ (Instr.sym 1#32 2#32).wellFormed = true ∧
    Instr.nop.wellFormed = true := by decide

/-- `EveryWordReadsBackFromItsBytes`: an empty container, the lowest number with a bit too many and the greatest number
that has none, in both formats. -/
theorem witness_containers :
    ([] : List Byte).length ≠ Format.ipc.bytes ∧
    ([0#8, 0#8, 0#8, 0#8, 0#8, 0#8, 0#8, 0#8, 2#8].length = Format.ipc.bytes ∧
      2 ^ Format.ipc.bits ≤ bytesToNat [0#8, 0#8, 0#8, 0#8, 0#8, 0#8, 0#8, 0#8, 2#8]) ∧
    ((List.replicate 12 0#8 ++ [8#8]).length = Format.ifd.bytes ∧
      2 ^ Format.ifd.bits ≤ bytesToNat (List.replicate 12 0#8 ++ [8#8])) ∧
    ((List.replicate 12 255#8 ++ [7#8]).length = Format.ifd.bytes ∧
      bytesToNat (List.replicate 12 255#8 ++ [7#8]) < 2 ^ Format.ifd.bits) := by decide

/-! ### Witnesses: the tolerance test -/

/-- `BoundaryLaw`: `T_BIT_MARK` 560 at a margin of 200. -/
theorem witness_boundary_law :
    (760#32).toNat = (560#32).toNat + p200.margin.toNat ∧ (360#32).toNat + p200.margin.toNat = (560#32).toNat ∧
    (761#32).toNat = (560#32).toNat + (p200.margin.toNat + 1) ∧
    (359#32).toNat + (p200.margin.toNat + 1) = (560#32).toNat := by decide

/-- `FirstMatchWinsWhereWindowsOverlap`: the least margins at which the windows of a role meet. -/
theorem witness_overlap :
    (within (Params.nominal 1125#32) 9000#32 9000#32 = true ∧ within (Params.nominal 1125#32) 3375#32 4500#32 = true ∧
      within (Params.nominal 1125#32) 3375#32 2250#32 = true) ∧
    (within (Params.nominal 565#32) 560#32 560#32 = true ∧ within (Params.nominal 565#32) 1125#32 560#32 = true ∧
      within (Params.nominal 565#32) 1125#32 1690#32 = true) := by decide

/-- `SeparatedWindowsAreDisjoint`: the greatest margin of a separated configuration, and the next. -/
theorem witness_separated :
    separated (Params.nominal 564#32) = true ∧ separated (Params.nominal 565#32) = false := by decide

/-- `ClassifierOutputDependsOnItsInputsAlone`: two states with the same parameters and different registers. -/
theorem witness_classifier_inputs :
    (machine 200#32 holdsCommand).params = (machine 200#32 (awaiting .kRepeat)).params ∧
    (∃ t, exec (.classifyLead 9000#32 4500#32) (machine 200#32 holdsCommand) = .next t) ∧
    (∃ t, exec (.classifyLead 9000#32 4500#32) (machine 200#32 (awaiting .kRepeat)) = .next t) ∧
    (∃ t, exec (.classifyBit 560#32 560#32) (machine 200#32 holdsCommand) = .next t) ∧
    (∃ t, exec (.classifyBit 560#32 560#32) (machine 200#32 (awaiting .kRepeat)) = .next t) ∧
    (∃ t, exec (decode (.ifd 0b001#3 0#32 9000#32 2250#32)) (machine 200#32 (awaiting .kRepeat)) = .next t) :=
  ⟨rfl, ⟨_, rfl⟩, ⟨_, rfl⟩, ⟨_, rfl⟩, ⟨_, rfl⟩, ⟨_, rfl⟩⟩

/-! ### Witnesses: the operations -/

/-- `ResetLoadsTheResetTable`, `StartChecksTheCountFirst`: the control values of each operation. -/
theorem witness_reset_and_start_ctrl :
    (0b100#3).getLsbD 2 = true ∧ (0b111#3).getLsbD 2 = true ∧
    ((0b010#3).getLsbD 2 = false ∧ (0b010#3).getLsbD 1 = true) ∧
    ((0b011#3).getLsbD 2 = false ∧ (0b011#3).getLsbD 1 = true) := by decide

/-- `NopChangesNothing`: an idle decoder, with and without a result. -/
theorem witness_idle :
    (machine 200#32 Decoder.resetValues).dec.st = .idle ∧ (machine 200#32 holdsCommand).dec.st = .idle := by decide

/-- `SoleSymbolDecidesARepeatFrame`: a one-symbol window, with a repeat lead and with a normal one. -/
theorem witness_sole_symbol :
    (awaiting .kRepeat).st = .lead ∧ (awaiting .kRepeat).kind = .kRepeat ∧ (machine 200#32 (awaiting .kRepeat)).Inv ∧
    classify p200 9000#32 2250#32 .lead = .leadRepeat ∧ classify p200 9000#32 4500#32 .lead ≠ .leadRepeat :=
  ⟨rfl, rfl, inv_awaiting _, by decide, by decide⟩

/-- `FirstSymbolOpensANormalFrame`: a 33-symbol window, with a normal lead and with a repeat one. -/
theorem witness_first_symbol :
    (awaiting .kNormal).st = .lead ∧ (awaiting .kNormal).kind = .kNormal ∧ (machine 200#32 (awaiting .kNormal)).Inv ∧
    classify p200 9000#32 4500#32 .lead = .leadNormal ∧ classify p200 9000#32 2250#32 .lead ≠ .leadNormal :=
  ⟨rfl, rfl, inv_awaiting _, by decide, by decide⟩

/-- `UnrecognizedPayloadSymbolEndsTheWindow`: at the first and at the last payload symbol. -/
theorem witness_unrecognized :
    (inPayload 0#6 0#32).st = .payload ∧ classify p200 560#32 1000#32 .bit = .unrecognized ∧
    (machine 200#32 (inPayload 0#6 0#32)).Inv ∧ (machine 200#32 (inPayload 31#6 0x6916FF00#32)).Inv :=
  ⟨rfl, by decide, inv_inPayload _ _ (by decide) (by decide), inv_inPayload _ _ (by decide) (by decide)⟩

/-- `RecognizedBitIsAccumulated`: a `BIT0` at the first and a `BIT1` at the last index of the rule. -/
theorem witness_recognized :
    ((inPayload 0#6 0#32).st = .payload ∧ (inPayload 0#6 0#32).idx.toNat < 31 ∧
      classify p200 560#32 560#32 .bit ≠ .unrecognized) ∧
    ((inPayload 30#6 0x2916FF00#32).st = .payload ∧ (inPayload 30#6 0x2916FF00#32).idx.toNat < 31 ∧
      classify p200 560#32 1690#32 .bit ≠ .unrecognized) := by decide

/-- `LastBitValidatesAtTheSameEdge`: a word whose byte pairs are complements, and one whose are not. -/
theorem witness_last_bit :
    (inPayload 31#6 0x6916FF00#32).st = .payload ∧ (inPayload 31#6 0x6916FF00#32).idx = 31#6 ∧
    classify p200 560#32 1690#32 .bit ≠ .unrecognized ∧
    0xE916FF00#32 = 0x6916FF00#32 ||| (if classify p200 560#32 1690#32 .bit = .bit1 then 1#32 else 0#32) <<< 31 ∧
    0x6916FF00#32 = 0x6916FF00#32 ||| (if classify p200 560#32 560#32 .bit = .bit1 then 1#32 else 0#32) <<< 31 ∧
    complementOk 0xE916FF00#32 = true ∧ complementOk 0x6916FF00#32 = false ∧
    (machine 200#32 (inPayload 31#6 0x6916FF00#32)).Inv :=
  ⟨rfl, rfl, by decide, by decide, by decide, by decide, by decide, inv_inPayload _ _ (by decide) (by decide)⟩

/-- `PayloadHalvesPairEachByteWithItsComplement`. -/
theorem witness_payload_halves : complementOk 0xE916FF00#32 = true ∧ commandOf 0xE916FF00#32 = 0x16#8 := by decide

/-- `OperationsWriteOnlyTheirOwnBlock`: every operation answers a next state. -/
theorem witness_frames :
    ∀ i ∈ [Instr.classifyLead 9000#32 4500#32, .classifyBit 560#32 560#32, .reset, .nop, .start 33#32, .sym 560#32 0#32],
      ∃ t, exec i (machine 200#32 (inPayload 3#6 5#32)) = .next t := fun i _ => ⟨_, exec_eq_after i _⟩

/-! ### Witnesses: the step -/

/-- `StepPerformsTheNextOperation`: a word and the bytes of one pending, and nothing pending. -/
theorem witness_step_performs :
    ((machine 200#32 holdsCommand).setPending [encode (.start 1#32), encode .nop]).pending
      = encode (.start 1#32) :: [encode .nop] ∧
    decodeBytes .ifd (encodeBytes (.start 1#32)) = .ok (.start 1#32) ∧
    parseBytes .ifd (encodeBytes (.start 1#32)) = .ok (encode (.start 1#32)) ∧
    (machine 200#32 holdsCommand).pending = [] := ⟨rfl, rfl, rfl, rfl⟩

/-- `PlacedWordIsPerformedNext`: the widths at the ends of each format's range. -/
theorem witness_placed_word :
    decodeTableWord 65 0x1000002300000069A = some (.classifyBit 560#32 1690#32) ∧
    decodeTableWord 72 0x1000002300000069A = some (.classifyBit 560#32 1690#32) ∧
    decodeTableWord 64 0b100 = some .reset ∧ decodeTableWord 73 0b100 = some .reset ∧
    decodeTableWord 8 0b001 = some (.sym 0#32 0#32) := by decide

/-- `StepAgreesWithTheStepFunction`: `RESET` with `START`, `START` with a symbol, and a symbol, each pending. -/
theorem witness_step_agrees :
    ∀ ctrl ∈ [0b110#3, 0b011#3, 0b001#3, 0b000#3],
      ((machine 200#32 (inPayload 31#6 5#32)).place (.ifd ctrl 33#32 560#32 1690#32)).pending
        = .ifd ctrl 33#32 560#32 1690#32 :: [] := fun _ _ => rfl

/-- `StatusOutputsFollowTheControlState`: two different states with the same `st`. -/
theorem witness_same_control_state :
    (machine 200#32 Decoder.resetValues).dec.st = (machine 0#32 holdsCommand).dec.st ∧
    machine 200#32 Decoder.resetValues ≠ machine 0#32 holdsCommand := by decide

/-- `OnlyATransferTakesASymbol`: a symbol while `IDLE`, a symbol with a `START`, a symbol with a `RESET`, no symbol. -/
theorem witness_no_transfer :
    holdsCommand.transfer (.ifd 0b001#3 0#32 560#32 560#32) = false ∧
    (inPayload 3#6 5#32).transfer (.ifd 0b011#3 1#32 560#32 560#32) = false ∧
    (inPayload 3#6 5#32).transfer (.ifd 0b101#3 1#32 560#32 560#32) = false ∧
    (inPayload 3#6 5#32).transfer (.ifd 0b000#3 1#32 560#32 560#32) = false ∧
    (inPayload 3#6 5#32).transfer (.ifd 0b001#3 1#32 560#32 560#32) = true := by decide

/-- `ParametersNeverChange`: a step and a run that answer a next state. -/
theorem witness_run_answers :
    (∃ t, step (machine 200#32 holdsCommand) = .next t) ∧
    (∃ t, runWords [encode .reset, encode (.start 1#32)] (machine 200#32 holdsCommand) = .next t) :=
  ⟨⟨_, rfl⟩, ⟨_, runWords_eq _ _⟩⟩

/-! ### Witnesses: invariants -/

/-- A state with the invariant whose next operation is given. -/
abbrev about (d : Decoder) (i : Instr) : State := (machine 200#32 d).place (encode i)

/-- `EveryStepKeepsTheInvariant`: a step that ends a window. -/
theorem witness_inv_step :
    (about (inPayload 31#6 0x6916FF00#32) (.sym 560#32 1690#32)).Inv ∧
    ∃ t, step (about (inPayload 31#6 0x6916FF00#32) (.sym 560#32 1690#32)) = .next t :=
  ⟨inv_inPayload _ _ (by decide) (by decide), ⟨_, rfl⟩⟩

/-- `TerminalsLeaveTheResultTable`, `NoPartialCommandApplication`: a step to each of the six terminals. -/
theorem witness_terminals :
    (∃ t, (about (inPayload 31#6 0x6916FF00#32) (.sym 560#32 1690#32)).Inv ∧
      step (about (inPayload 31#6 0x6916FF00#32) (.sym 560#32 1690#32)) = .next t ∧ t.dec.done = true ∧
      t.dec.result = .command ∧ t.dec.cmd ≠ 0#8) ∧
    (∃ t, (about (awaiting .kRepeat) (.sym 9000#32 2250#32)).Inv ∧
      step (about (awaiting .kRepeat) (.sym 9000#32 2250#32)) = .next t ∧ t.dec.done = true ∧
      t.dec.result = .repeated) ∧
    (∃ t, (about (awaiting .kRepeat) (.start 34#32)).Inv ∧ step (about (awaiting .kRepeat) (.start 34#32)) = .next t ∧
      t.dec.done = true ∧ t.dec.reason = .wrongSymbolCount) ∧
    (∃ t, (about (awaiting .kNormal) (.sym 9000#32 2250#32)).Inv ∧
      step (about (awaiting .kNormal) (.sym 9000#32 2250#32)) = .next t ∧ t.dec.done = true ∧
      t.dec.reason = .badLeadMarker) ∧
    (∃ t, (about (inPayload 31#6 0#32) (.sym 560#32 3000#32)).Inv ∧
      step (about (inPayload 31#6 0#32) (.sym 560#32 3000#32)) = .next t ∧ t.dec.done = true ∧
      t.dec.reason = .badPayloadBit ∧ t.dec.badIndex = 32#6) ∧
    (∃ t, (about (inPayload 31#6 0#32) (.sym 560#32 560#32)).Inv ∧
      step (about (inPayload 31#6 0#32) (.sym 560#32 560#32)) = .next t ∧ t.dec.done = true ∧
      t.dec.reason = .complementMismatch) :=
  ⟨⟨_, inv_inPayload _ _ (by decide) (by decide), rfl, by decide, by decide, by decide⟩,
    ⟨_, inv_awaiting _, rfl, by decide, by decide⟩, ⟨_, inv_awaiting _, rfl, by decide, by decide⟩,
    ⟨_, inv_awaiting _, rfl, by decide, by decide⟩,
    ⟨_, inv_inPayload _ _ (by decide) (by decide), rfl, by decide, by decide, by decide⟩,
    ⟨_, inv_inPayload _ _ (by decide) (by decide), rfl, by decide, by decide⟩⟩

/-- `BusyOutputsReadNone`: a step into `LEAD` that discards a result, and one within `PAYLOAD`. -/
theorem witness_busy :
    (∃ t, (about holdsCommand (.start 33#32)).Inv ∧ step (about holdsCommand (.start 33#32)) = .next t ∧
      t.outputs.busyO = 1#1) ∧
    (∃ t, (about (inPayload 30#6 5#32) (.sym 560#32 560#32)).Inv ∧
      step (about (inPayload 30#6 5#32) (.sym 560#32 560#32)) = .next t ∧ t.outputs.busyO = 1#1) :=
  ⟨⟨_, inv_holdsCommand, rfl, by decide⟩,
    ⟨_, inv_inPayload _ _ (by decide) (by decide), rfl, by decide⟩⟩

/-- `ControlStateMovesOnlyForward`: `LEAD` entered by each legal count, `PAYLOAD` from `LEAD`, and a restart. -/
theorem witness_control_state :
    (∃ t, exec (.start 1#32) (machine 200#32 holdsCommand) = .next t ∧ t.dec.st = .lead ∧ holdsCommand.st ≠ .lead) ∧
    (∃ t, exec (.start 33#32) (machine 200#32 holdsCommand) = .next t ∧ t.dec.st = .lead ∧ holdsCommand.st ≠ .lead) ∧
    (∃ t, exec (.sym 9000#32 4500#32) (machine 200#32 (awaiting .kNormal)) = .next t ∧ t.dec.st = .payload ∧
      (awaiting .kNormal).st ≠ .payload) ∧
    (∃ t, exec (.start 1#32) (machine 200#32 (inPayload 3#6 5#32)) = .next t ∧ (inPayload 3#6 5#32).st = .payload ∧
      t.dec.st = .lead) :=
  ⟨⟨_, rfl, by decide, by decide⟩, ⟨_, rfl, by decide, by decide⟩, ⟨_, rfl, by decide, by decide⟩,
    ⟨_, rfl, rfl, by decide⟩⟩

/-- `IdleTakesNoSymbolUntilTheNextStart`: symbols and idle cycles after a command. -/
theorem witness_idle_takes_none :
    (machine 200#32 holdsCommand).Inv ∧ (machine 200#32 holdsCommand).dec.done = true ∧
    ∀ w ∈ [encode (.sym 9000#32 4500#32), encode .nop, encode (.classifyBit 0#32 0#32)], isQuiet w = true :=
  ⟨inv_holdsCommand, rfl, by decide⟩

/-- `WaitingDecoderNeverTimesOut`: both busy states with idle cycles and an evaluation. -/
theorem witness_waiting :
    ((machine 200#32 (awaiting .kRepeat)).Inv ∧ (awaiting .kRepeat).st ≠ .idle) ∧
    ((machine 200#32 (inPayload 31#6 5#32)).Inv ∧ (inPayload 31#6 5#32).st ≠ .idle) ∧
    (∀ w ∈ [encode .nop, encode (.classifyLead 9000#32 4500#32), encode .nop], isQuiet w = true) ∧
    presentedSymbols [encode .nop, encode (.classifyLead 9000#32 4500#32), encode .nop] = [] :=
  ⟨⟨inv_awaiting _, by decide⟩, ⟨inv_inPayload _ _ (by decide) (by decide), by decide⟩, by decide, by decide⟩

/-! ### Witnesses: windows -/

/-- A normal lead and `n` words that each present the symbol (560, `space`). -/
abbrev frame (n : Nat) (space : Word) : List PortWord :=
  encode (.sym 9000#32 4500#32) :: List.replicate n (encode (.sym 560#32 space))

/-- A normal frame whose payload symbols are `BIT0` but for symbol `j`, which is no bit. -/
abbrev frameBadAt (j : Nat) : List PortWord :=
  frame (j - 1) 560#32 ++ encode (.sym 560#32 1000#32) :: List.replicate (32 - j) (encode (.sym 560#32 560#32))

/-- The window of a list of words. -/
abbrev windowIn (ws : List PortWord) : Nat → PulseSymbol := windowOf (presentedSymbols ws)

/-- `DecoderAgreesWithTheReferenceFunction`: a `START` with a symbol that is not taken, a whole window after it and one
that lacks its last symbol. -/
theorem witness_agrees :
    decode (.ifd 0b011#3 33#32 9000#32 4500#32) = .start 33#32 ∧ (∀ w ∈ frame 32 560#32, isQuiet w = true) ∧
    symbolsTaken p200 33#32 (windowIn (frame 32 560#32)) ≤ (presentedSymbols (frame 32 560#32)).length ∧
    (presentedSymbols (frame 31 560#32)).length < symbolsTaken p200 33#32 (windowIn (frame 31 560#32)) ∧
    (∀ w ∈ frame 31 560#32, isQuiet w = true) := by decide

/-- `SymbolsTakenFollowTheTable`: each row of the table, its fourth at both ends. -/
theorem witness_symbols_taken :
    ((34#32 : Word) ≠ 1#32 ∧ (34#32 : Word) ≠ 33#32) ∧
    classAt p200 (windowIn [encode (.sym 9000#32 2250#32)]) 0 .lead ≠ .leadNormal ∧
    (∀ j ∈ [1, 32], classAt p200 (windowIn (frameBadAt j)) 0 .lead = .leadNormal ∧ 1 ≤ j ∧ j ≤ 32 ∧
      classAt p200 (windowIn (frameBadAt j)) j .bit = .unrecognized ∧
      ∀ k, k < j → 1 ≤ k → classAt p200 (windowIn (frameBadAt j)) k .bit ≠ .unrecognized) ∧
    (classAt p200 (windowIn (frame 32 1690#32)) 0 .lead = .leadNormal ∧
      ∀ k, k ≤ 32 → 1 ≤ k → classAt p200 (windowIn (frame 32 1690#32)) k .bit ≠ .unrecognized) ∧
    (∃ t, exec (.start 33#32) (machine 200#32 holdsCommand) = .next t) ∧
    (∀ w ∈ frameBadAt 32, isQuiet w = true) :=
  ⟨by decide, by decide, by decide, by decide, ⟨_, rfl⟩, by decide⟩

/-- `DecodingTwiceGivesTheSameResult`: the same symbols with and without an idle cycle, from different states. -/
theorem witness_twice :
    (machine 200#32 holdsCommand).params = (machine 200#32 (inPayload 3#6 5#32)).params ∧
    (∀ w ∈ frame 32 560#32, isQuiet w = true) ∧ (∀ w ∈ encode .nop :: frame 32 560#32, isQuiet w = true) ∧
    presentedSymbols (frame 32 560#32) = presentedSymbols (encode .nop :: frame 32 560#32) := by decide

/-- `FirstCauseInOrderIsReported`: a wrong count, a bad lead for each legal count, the first and the last payload symbol
bad, and every bit recognized, each window whole and its run answering a next state. -/
theorem witness_first_cause :
    ((5#32 : Word) ≠ 1#32 ∧ (5#32 : Word) ≠ 33#32) ∧
    ((1#32 : Word).toNat ≤ (presentedSymbols [encode (.sym 9000#32 4500#32)]).length ∧
      classAt p200 (windowIn [encode (.sym 9000#32 4500#32)]) 0 .lead ≠ .leadRepeat) ∧
    ((33#32 : Word).toNat ≤ (presentedSymbols (List.replicate 33 (encode (.sym 560#32 560#32)))).length ∧
      classAt p200 (windowIn (List.replicate 33 (encode (.sym 560#32 560#32)))) 0 .lead ≠ .leadNormal) ∧
    (∀ j ∈ [1, 32], (33#32 : Word).toNat ≤ (presentedSymbols (frameBadAt j)).length ∧
      classAt p200 (windowIn (frameBadAt j)) 0 .lead = .leadNormal ∧ 1 ≤ j ∧ j ≤ 32 ∧
      classAt p200 (windowIn (frameBadAt j)) j .bit = .unrecognized ∧
      ∀ k, k < j → 1 ≤ k → classAt p200 (windowIn (frameBadAt j)) k .bit ≠ .unrecognized) ∧
    ((33#32 : Word).toNat ≤ (presentedSymbols (frame 32 560#32)).length ∧
      classAt p200 (windowIn (frame 32 560#32)) 0 .lead = .leadNormal ∧
      ∀ k, k ≤ 32 → 1 ≤ k → classAt p200 (windowIn (frame 32 560#32)) k .bit ≠ .unrecognized) ∧
    (∀ (n : Word) (ws : List PortWord), ∃ t, runWords (encode (.start n) :: ws) (machine 200#32 holdsCommand) = .next t) :=
  ⟨by decide, by decide, by decide, by decide, by decide, fun n ws => ⟨_, runWords_eq _ _⟩⟩

/-- The words of P1: `FRAME 0x00, 0x16` without its `START`. -/
abbrev p1Words : List PortWord := (assemble p200 [.leadN, .payload 0xE916FF00#32])

/-- `PayloadSymbolsArriveLeastSignificantFirst`: the frame of P1, whose word gives a command. -/
theorem witness_payload_order :
    (∀ w ∈ p1Words, isQuiet w = true) ∧ 33 ≤ (presentedSymbols p1Words).length ∧
    classAt p200 (windowIn p1Words) 0 .lead = .leadNormal ∧
    (∀ k, k ≤ 32 → 1 ≤ k → classAt p200 (windowIn p1Words) k .bit ≠ .unrecognized) ∧
    (∃ t, runWords (encode (.start 33#32) :: p1Words) (machine 200#32 holdsCommand) = .next t) ∧
    complementOk 0xE916FF00#32 = true :=
  ⟨by decide, by decide, by decide, by decide, ⟨_, runWords_eq _ _⟩, by decide⟩

/-- `NextIndexCountsThePresentedSymbols`: a window after its lead and two bits is busy. -/
theorem witness_next_index :
    (∀ w ∈ frame 2 1690#32, isQuiet w = true) ∧
    ∃ t, runWords (encode (.start 33#32) :: frame 2 1690#32) (machine 200#32 holdsCommand) = .next t ∧
      t.outputs.busyO = 1#1 := ⟨by decide, _, runWords_eq _ _, by decide⟩

/-- `FewerThan33SymbolsGiveNoCommand`: the most symbols that are too few. -/
theorem witness_too_few :
    (∀ w ∈ frame 31 560#32, isQuiet w = true) ∧ (presentedSymbols (frame 31 560#32)).length < 33 ∧
    ∃ t, runWords (encode (.start 33#32) :: frame 31 560#32) (machine 200#32 holdsCommand) = .next t :=
  ⟨by decide, by decide, _, runWords_eq _ _⟩

/-- `CompletionTakesOneEdgePerSymbol`: a run answers a next state. -/
theorem witness_completion :
    ∃ t, runWords (encode (.start 1#32) :: [⟨9000#32, 2250#32⟩].map symbolWord) (machine 200#32 holdsCommand) = .next t :=
  ⟨_, runWords_eq _ _⟩

/-- `FramewDecodesToItsWord`, `FrameDecodesToItsCommand`, `RepeatFrameDecodesToRepeat`: the margin of the vectors, and the
greatest for which each premise holds. -/
theorem witness_nominal_frames :
    within p200 p200.tBitSpace1 p200.tBitSpace0 = false ∧ within p200 p200.tLeadSpaceRepeat p200.tLeadSpaceNormal = false ∧
    within (Params.nominal 1129#32) 1690#32 560#32 = false ∧ within (Params.nominal 2249#32) 2250#32 4500#32 = false ∧
    complementOk 0xE916FF00#32 = true ∧ complementOk 0xE916FE00#32 = false := by decide

/-- `PseudoOperationsExpandAsTheTableSays`: the lines at both ends of a payload, and the word of R142's example. -/
theorem witness_payload_lines :
    (0 < 32 ∧ (Line.expand p200 (.payload 0x80000000#32))[0]? = some (.sym 560#32 560#32)) ∧
    (31 < 32 ∧ (Line.expand p200 (.payload 0x80000000#32))[31]? = some (.sym 560#32 1690#32)) ∧
    frameWord 0x00#8 0x16#8 = 0xE916FF00#32 := by decide

/-- `CheckPassesIfEveryStartFollowsAReset`: a program with a `START`. -/
theorem witness_start_after_reset :
    [encode .nop, encode .reset, encode (.start 33#32)] = [encode .nop, encode .reset] ++ encode (.start 33#32) :: [] ∧
    decode (encode (.start 33#32)) = .start 33#32 := by decide

/-- `RunsThatResetHaveTheInvariant`: a run whose `RESET` is neither first nor last, from registers no reset leads to. -/
theorem witness_run_that_resets :
    ∃ w ∈ [encode (.sym 0#32 0#32), encode .reset, encode (.start 33#32)], decode w = .reset := by decide

end Sys2Proof.Tests
end

section
/-! The count of the symbols of a window, which the decoder's registers keep (R26, R35): how far a window has come, and
that a `COMMAND` takes 33 symbols (R10). -/

namespace Sys2Proof.Machine

/-- What the registers say about a window of which `k` symbols were presented since its `START`: none while it waits for
its lead, the lead and the `idx` payload bits in `PAYLOAD`, and at least 33 where the window gave a `COMMAND`. -/
structure Decoder.CountsSymbols (d : Decoder) (k : Nat) : Prop where
  ofLead : d.st = .lead → k = 0 ∧ d.idx = 0#6
  ofPayload : d.st = .payload → k = d.idx.toNat + 1 ∧ d.idx.toNat ≤ 31
  ofCommand : d.result = .command → 33 ≤ k

/-- A window that has ended without a command counts nothing. -/
theorem Decoder.countsSymbols_of_idle {d : Decoder} {k : Nat} (hst : d.st = .idle) (hres : d.result ≠ .command) :
    d.CountsSymbols k where
  ofLead h := by simp [hst] at h
  ofPayload h := by simp [hst] at h
  ofCommand h := absurd h hres

/-- A `START` begins the count, whatever its own count and the registers before it. -/
theorem Decoder.start_countsSymbols (d : Decoder) (n : Word) : (d.start n).CountsSymbols 0 := by
  rcases d.start_cases n with ⟨_, e⟩ | ⟨_, e⟩ | ⟨_, _, e⟩ <;> rw [e] <;> constructor <;> simp

/-- An accepted bit counts as one symbol. A command can come only with bit 31, which is in the window's 33rd symbol. -/
theorem Decoder.acceptBit_countsSymbols {d : Decoder} {k : Nat} (bit : Bool) (hst : d.st = .payload)
    (h : d.CountsSymbols k) : (d.acceptBit bit).CountsSymbols (k + 1) := by
  obtain ⟨hk, hidx⟩ := h.ofPayload hst
  rcases d.acceptBit_cases bit with ⟨hne, e⟩ | ⟨hlast, e⟩ <;> rw [e]
  · have hlt : d.idx.toNat ≠ 31 := fun h31 => hne (BitVec.eq_of_toNat_eq h31)
    have hsucc := idx_add_one_toNat d.idx hidx
    constructor
    · simp [hst]
    · intro _
      rw [Decoder.addBit_idx, hsucc]
      omega
    · intro hres
      have := h.ofCommand hres
      omega
  · have hk33 : k + 1 = 33 := by rw [hk, hlast]; rfl
    constructor
    · simp
    · simp
    · intro _
      exact hk33.ge

/-- A presented symbol counts as one, whatever it is. -/
theorem Decoder.sym_countsSymbols {d : Decoder} {k : Nat} (p : Params) (m s : Word) (h : d.CountsSymbols k) :
    (d.sym p m s).CountsSymbols (k + 1) := by
  rcases d.sym_cases p m s with
    ⟨hst, e⟩ | ⟨_, _, _, e⟩ | ⟨hst, _, _, e⟩ | ⟨_, _, _, e⟩ | ⟨_, _, e⟩ | ⟨hst, _, e⟩ <;> rw [e]
  · constructor
    · simp [hst]
    · simp [hst]
    · exact fun hres => Nat.le_succ_of_le (h.ofCommand hres)
  · exact countsSymbols_of_idle rfl (by simp)
  · obtain ⟨hk, hidx⟩ := h.ofLead hst
    constructor
    · simp
    · simp [hk, hidx]
    · exact fun hres => Nat.le_succ_of_le (h.ofCommand hres)
  · exact countsSymbols_of_idle rfl (by simp)
  · exact countsSymbols_of_idle rfl (by simp)
  · exact acceptBit_countsSymbols _ hst h

/-- The count goes on through a list of presented symbols. -/
theorem Decoder.feed_countsSymbols (p : Params) (l : List PulseSymbol) {d : Decoder} {k : Nat}
    (h : d.CountsSymbols k) : (Decoder.feed p l d).CountsSymbols (k + l.length) := by
  induction l generalizing d k with
  | nil => exact h
  | cons x l ih =>
    have hl : k + (x :: l).length = k + 1 + l.length := by rw [List.length_cons]; omega
    rw [Decoder.feed_cons, hl]
    exact ih (sym_countsSymbols p x.mark x.space h)

/-- After a `START` and quiet words the registers are those of the started decoder fed the presented symbols. -/
theorem runWords_start_dec {s t : State} {n : Word} {w0 : PortWord} {ws : List PortWord} (hstart : decode w0 = .start n)
    (hquiet : ∀ w ∈ ws, isQuiet w = true) (hrun : runWords (w0 :: ws) s = .next t) :
    t.dec = Decoder.feed s.params (presentedSymbols ws) (s.dec.start n) := by
  rw [runWords_eq] at hrun
  cases hrun
  rw [State.setPending_dec, afterWords_cons, hstart, afterWords_quiet_dec _ _ hquiet, after_params]
  rfl

/-- After a `START` and quiet words the registers count the presented symbols. -/
theorem runWords_start_countsSymbols {s t : State} {n : Word} {w0 : PortWord} {ws : List PortWord}
    (hstart : decode w0 = .start n) (hquiet : ∀ w ∈ ws, isQuiet w = true) (hrun : runWords (w0 :: ws) s = .next t) :
    t.dec.CountsSymbols (presentedSymbols ws).length := by
  have h := Decoder.feed_countsSymbols s.params (presentedSymbols ws) (s.dec.start_countsSymbols n)
  rwa [Nat.zero_add, ← runWords_start_dec hstart hquiet hrun] at h

end Sys2Proof.Machine

namespace Sys2Proof

open Machine

/-- Settles O52: the registers count the presented symbols, and a command needs 33 of them. -/
theorem fewerThan33SymbolsGiveNoCommand : Obligations.FewerThan33SymbolsGiveNoCommand := by
  intro s t n ws hquiet hfew hrun hcommand
  have hcount := runWords_start_countsSymbols rfl hquiet hrun
  exact absurd (hcount.ofCommand hcommand) (Nat.not_le.mpr hfew)

end Sys2Proof
end

section
/-! What the output ports show of the control state (R33), and which operations move it (R24, R130). -/

namespace Sys2Proof.Machine

/-! ### The status outputs -/

@[simp] theorem ofBool_eq_one_iff (b : Bool) : BitVec.ofBool b = 1#1 ↔ b = true := by cases b <;> decide

@[simp] theorem Decoder.busyO_iff (d : Decoder) : d.busyO = true ↔ d.st ≠ .idle := bne_iff_ne

@[simp] theorem Decoder.symReadyO_iff (d : Decoder) : d.symReadyO = true ↔ d.st ≠ .idle := bne_iff_ne

theorem State.outputs_busyO_eq_one_iff (s : State) : s.outputs.busyO = 1#1 ↔ s.dec.st ≠ .idle := by
  simp [State.outputs]

theorem State.outputs_symReadyO_eq_one_iff (s : State) : s.outputs.symReadyO = 1#1 ↔ s.dec.st ≠ .idle := by
  simp [State.outputs]

theorem State.outputs_doneO_eq_one_iff (s : State) : s.outputs.doneO = 1#1 ↔ s.dec.done = true := by
  simp [State.outputs]

/-- The index of the next symbol, with `st` tested in place of matched. -/
theorem Decoder.nextIndex_eq_ite (d : Decoder) :
    d.nextIndex = if d.st = .lead then some 0 else if d.st = .payload then some (d.idx.toNat + 1) else none := by
  unfold Decoder.nextIndex
  cases d.st <;> rfl

/-- While a window is decoded the index of the next symbol is the number of symbols presented. -/
theorem Decoder.CountsSymbols.nextIndex_of_busy {d : Decoder} {k : Nat} (h : d.CountsSymbols k)
    (hbusy : d.st ≠ .idle) : d.nextIndex = some k := by
  rw [Decoder.nextIndex_eq_ite]
  cases hst : d.st with
  | idle => exact absurd hst hbusy
  | lead => simp [h.ofLead hst]
  | payload => simp [h.ofPayload hst]

/-! ### Entering a control state -/

theorem Decoder.start_st_eq_lead_iff (d : Decoder) (n : Word) : (d.start n).st = .lead ↔ n = 1#32 ∨ n = 33#32 := by
  rcases d.start_cases n with ⟨hn, e⟩ | ⟨hn, e⟩ | ⟨h1, h33, e⟩ <;> rw [e]
  · simp [hn]
  · simp [hn]
  · simp [h1, h33]

theorem Decoder.start_st_ne_payload (d : Decoder) (n : Word) : (d.start n).st ≠ .payload := by
  rcases d.start_cases n with ⟨_, e⟩ | ⟨_, e⟩ | ⟨_, _, e⟩ <;> rw [e] <;> simp

/-- An accepted bit leads to `PAYLOAD` or to the end of the window. -/
theorem Decoder.acceptBit_st_ne_lead {d : Decoder} (bit : Bool) (hst : d.st = .payload) :
    (d.acceptBit bit).st ≠ .lead := by
  rcases d.acceptBit_cases bit with ⟨_, e⟩ | ⟨_, e⟩ <;> rw [e]
  · simp [hst]
  · simp

/-- No symbol leads to `LEAD`. -/
theorem Decoder.sym_st_ne_lead {d : Decoder} (p : Params) (m s : Word) (hst : d.st ≠ .lead) :
    (d.sym p m s).st ≠ .lead := by
  rcases d.sym_cases p m s with ⟨_, e⟩ | ⟨h, _⟩ | ⟨h, _⟩ | ⟨h, _⟩ | ⟨_, _, e⟩ | ⟨h, _, e⟩
  · rwa [e]
  · exact absurd h hst
  · exact absurd h hst
  · exact absurd h hst
  · simp [e]
  · rw [e]
    exact acceptBit_st_ne_lead _ h

/-- A symbol that leads to `PAYLOAD` is the normal lead of a normal frame. -/
theorem Decoder.sym_enters_payload {d : Decoder} {p : Params} {m s : Word} (hto : (d.sym p m s).st = .payload)
    (hst : d.st ≠ .payload) : d.st = .lead ∧ d.kind = .kNormal ∧ classify p m s .lead = .leadNormal := by
  rcases d.sym_cases p m s with ⟨_, e⟩ | ⟨_, _, _, e⟩ | ⟨hlead, hkind, hcls, _⟩ | ⟨_, _, _, e⟩ | ⟨h, _⟩ | ⟨h, _⟩
  · rw [e] at hto
    exact absurd hto hst
  · simp [e] at hto
  · exact ⟨hlead, hkind, hcls⟩
  · simp [e] at hto
  · exact absurd h hst
  · exact absurd h hst

/-- `LEAD` is entered by a `START` of a legal count alone. -/
theorem exec_enters_lead {i : Instr} {s t : State} (h : exec i s = .next t) (hto : t.dec.st = .lead)
    (hst : s.dec.st ≠ .lead) : i = .start 1#32 ∨ i = .start 33#32 := by
  rcases exec_cases h with
    ⟨_, _, _, rfl⟩ | ⟨_, _, _, rfl⟩ | ⟨_, rfl⟩ | ⟨n, rfl, rfl⟩ | ⟨m, sp, _, rfl⟩ | ⟨_, rfl⟩
  · exact absurd hto hst
  · exact absurd hto hst
  · simp at hto
  · rcases (s.dec.start_st_eq_lead_iff n).mp hto with rfl | rfl
    · exact .inl rfl
    · exact .inr rfl
  · exact absurd hto (Decoder.sym_st_ne_lead s.params m sp hst)
  · exact absurd hto hst

/-- `PAYLOAD` is entered by the normal lead of a normal frame alone. -/
theorem exec_enters_payload {i : Instr} {s t : State} (h : exec i s = .next t) (hto : t.dec.st = .payload)
    (hst : s.dec.st ≠ .payload) : s.dec.st = .lead ∧ s.dec.kind = .kNormal ∧
      ∃ mark space, i = .sym mark space ∧ classify s.params mark space .lead = .leadNormal := by
  rcases exec_cases h with
    ⟨_, _, _, rfl⟩ | ⟨_, _, _, rfl⟩ | ⟨_, rfl⟩ | ⟨n, _, rfl⟩ | ⟨m, sp, hi, rfl⟩ | ⟨_, rfl⟩
  · exact absurd hto hst
  · exact absurd hto hst
  · simp at hto
  · exact absurd hto (s.dec.start_st_ne_payload n)
  · obtain ⟨hlead, hkind, hcls⟩ := Decoder.sym_enters_payload hto hst
    exact ⟨hlead, hkind, m, sp, hi, hcls⟩
  · exact absurd hto hst

end Sys2Proof.Machine
end

section
/-! The invariant of the decoder's registers (R26 to R34, R149): what it says in each control state, and that every
operation keeps it. -/

namespace Sys2Proof.Machine

/-! ### The invariant in each control state -/

theorem Decoder.inv_iff_of_idle {d : Decoder} (hst : d.st = .idle) :
    d.Inv ↔ d.idx.toNat ≤ 32 ∧ (∀ b : Nat, d.idx.toNat ≤ b → d.acc.getLsbD b = false) ∧
      (d.HoldsResult ∨ d.HoldsNothing) := by
  unfold Decoder.Inv
  rw [hst]

theorem Decoder.inv_iff_of_lead {d : Decoder} (hst : d.st = .lead) :
    d.Inv ↔ d.idx.toNat ≤ 32 ∧ (∀ b : Nat, d.idx.toNat ≤ b → d.acc.getLsbD b = false) ∧
      d.HoldsNothing ∧ d.idx = 0#6 := by
  unfold Decoder.Inv
  rw [hst]

theorem Decoder.inv_iff_of_payload {d : Decoder} (hst : d.st = .payload) :
    d.Inv ↔ d.idx.toNat ≤ 32 ∧ (∀ b : Nat, d.idx.toNat ≤ b → d.acc.getLsbD b = false) ∧
      d.HoldsNothing ∧ d.kind = .kNormal ∧ d.idx.toNat ≤ 31 := by
  unfold Decoder.Inv
  rw [hst]

/-- A window that ends with the payload registers as they were keeps the invariant if its result is a row of R149. -/
theorem Decoder.Inv.of_result {d e : Decoder} (h : d.Inv) (hidx : e.idx = d.idx) (hacc : e.acc = d.acc)
    (hst : e.st = .idle) (hres : e.HoldsResult) : e.Inv := by
  obtain ⟨hle, hzero, _⟩ := h
  rw [Decoder.inv_iff_of_idle hst, hidx, hacc]
  exact ⟨hle, hzero, .inl hres⟩

/-! ### The rows of the result table -/

theorem Decoder.HoldsNothing.finish_repeated_holdsResult {d : Decoder} (h : d.HoldsNothing) :
    (d.finish .repeated .none).HoldsResult := by
  obtain ⟨_, _, _, hbad, hcmd, haddr, hraw⟩ := h
  exact ⟨rfl, hbad, hcmd, haddr, hraw⟩

theorem Decoder.HoldsNothing.finish_badLeadMarker_holdsResult {d : Decoder} (h : d.HoldsNothing) :
    (d.finish .invalid .badLeadMarker).HoldsResult := by
  obtain ⟨_, _, _, hbad, hcmd, haddr, hraw⟩ := h
  exact ⟨rfl, hbad, hcmd, haddr, hraw⟩

/-- The index of the bad symbol is one above the bits that are in, and does not wrap. -/
theorem Decoder.HoldsNothing.rejectBit_holdsResult {d : Decoder} (h : d.HoldsNothing) (hidx : d.idx.toNat ≤ 31) :
    d.rejectBit.HoldsResult := by
  obtain ⟨_, _, _, _, hcmd, haddr, hraw⟩ := h
  have hsucc : d.rejectBit.badIndex.toNat = d.idx.toNat + 1 := idx_add_one_toNat d.idx hidx
  exact ⟨rfl, hsucc, hsucc ▸ Nat.succ_le_succ hidx, hcmd, haddr, hraw⟩

/-- Either verdict on a complete word is a row of the table. -/
theorem Decoder.HoldsNothing.validate_holdsResult {d : Decoder} (h : d.HoldsNothing) (hidx : d.idx = 32#6) :
    d.validate.HoldsResult := by
  obtain ⟨_, _, _, hbad, hcmd, haddr, _⟩ := h
  rcases d.validate_cases with ⟨hok, e⟩ | ⟨hbadWord, e⟩ <;> rw [e]
  · exact ⟨rfl, hok, hbad, rfl, rfl, rfl, hidx⟩
  · exact ⟨rfl, hbadWord, hbad, hcmd, haddr, rfl, hidx⟩

/-! ### Every operation keeps the invariant -/

theorem Decoder.resetValues_holdsNothing : Decoder.resetValues.HoldsNothing := ⟨rfl, rfl, rfl, rfl, rfl, rfl, rfl⟩

theorem Decoder.resetValues_inv : Decoder.resetValues.Inv := by
  rw [Decoder.inv_iff_of_idle rfl]
  exact ⟨by simp, by simp, .inr Decoder.resetValues_holdsNothing⟩

/-- Waiting for symbol 0 of either frame, with the registers as `START` leaves them. -/
theorem Decoder.inv_of_awaiting (k : Kind) :
    Decoder.Inv ⟨.lead, k, 0#6, 0#32, false, .none, .none, 0#6, 0#8, 0#8, 0#32⟩ := by
  rw [Decoder.inv_iff_of_lead rfl]
  exact ⟨by simp, by simp, ⟨rfl, rfl, rfl, rfl, rfl, rfl, rfl⟩, rfl⟩

/-- `START` gives the invariant from any registers. -/
theorem Decoder.start_inv (d : Decoder) (n : Word) : (d.start n).Inv := by
  rcases d.start_cases n with ⟨_, e⟩ | ⟨_, e⟩ | ⟨_, _, e⟩ <;> rw [e]
  · exact inv_of_awaiting _
  · exact inv_of_awaiting _
  · rw [Decoder.inv_iff_of_idle rfl]
    exact ⟨by simp, by simp, .inl ⟨rfl, rfl, rfl, rfl, rfl⟩⟩

/-- With one bit put in at position `idx` the accumulator is 0 from the next position up. -/
theorem Decoder.addBit_acc_zero_above {d : Decoder} (bit : Bool) (hidx : d.idx.toNat ≤ 31)
    (hzero : ∀ b : Nat, d.idx.toNat ≤ b → d.acc.getLsbD b = false) (b : Nat) (hb : (d.addBit bit).idx.toNat ≤ b) :
    (d.addBit bit).acc.getLsbD b = false := by
  rw [Decoder.addBit_idx, idx_add_one_toNat d.idx hidx] at hb
  have hne : b ≠ d.idx.toNat := by omega
  simp [getLsbD_placedBit, hzero b (by omega), hne]

theorem Decoder.validate_inv {d : Decoder} (h : d.HoldsNothing) (hidx : d.idx = 32#6) : d.validate.Inv := by
  have hkept : d.validate.idx = 32#6 := by
    rcases d.validate_cases with ⟨_, e⟩ | ⟨_, e⟩ <;> rw [e] <;> exact hidx
  rw [Decoder.inv_iff_of_idle d.validate_st, hkept]
  exact ⟨by decide, fun b hb => BitVec.getLsbD_of_ge _ _ hb, .inl (h.validate_holdsResult hidx)⟩

theorem Decoder.acceptBit_inv {d : Decoder} (bit : Bool) (hst : d.st = .payload) (h : d.Inv) :
    (d.acceptBit bit).Inv := by
  obtain ⟨_, hzero, hnothing, hkind, hidx⟩ := (Decoder.inv_iff_of_payload hst).mp h
  rcases d.acceptBit_cases bit with ⟨hne, e⟩ | ⟨hlast, e⟩ <;> rw [e]
  · have hlt : d.idx.toNat ≠ 31 := fun h31 => hne (BitVec.eq_of_toNat_eq h31)
    have hsucc : (d.addBit bit).idx.toNat = d.idx.toNat + 1 := idx_add_one_toNat d.idx hidx
    rw [Decoder.inv_iff_of_payload (show (d.addBit bit).st = .payload from hst)]
    exact ⟨by omega, addBit_acc_zero_above bit hidx hzero, hnothing, hkind, by omega⟩
  · exact validate_inv hnothing (by rw [Decoder.addBit_idx, hlast]; rfl)

/-- A presented symbol keeps the invariant, whatever it is. -/
theorem Decoder.sym_inv {d : Decoder} (p : Params) (m s : Word) (h : d.Inv) : (d.sym p m s).Inv := by
  rcases d.sym_cases p m s with
    ⟨_, e⟩ | ⟨hst, _, _, e⟩ | ⟨hst, hkind, _, e⟩ | ⟨hst, _, _, e⟩ | ⟨hst, _, e⟩ | ⟨hst, _, e⟩ <;> rw [e]
  · exact h
  · obtain ⟨_, _, hnothing, _⟩ := (Decoder.inv_iff_of_lead hst).mp h
    exact h.of_result rfl rfl rfl hnothing.finish_repeated_holdsResult
  · obtain ⟨hle, hzero, hnothing, hidx⟩ := (Decoder.inv_iff_of_lead hst).mp h
    rw [Decoder.inv_iff_of_payload rfl]
    exact ⟨hle, hzero, hnothing, hkind, by simp [hidx]⟩
  · obtain ⟨_, _, hnothing, _⟩ := (Decoder.inv_iff_of_lead hst).mp h
    exact h.of_result rfl rfl rfl hnothing.finish_badLeadMarker_holdsResult
  · obtain ⟨_, _, hnothing, _, hidx⟩ := (Decoder.inv_iff_of_payload hst).mp h
    exact h.of_result rfl rfl rfl (hnothing.rejectBit_holdsResult hidx)
  · exact acceptBit_inv _ hst h

theorem after_inv (i : Instr) {s : State} (h : s.Inv) : (after i s).Inv := by
  cases i with
  | classifyLead m sp => exact h
  | classifyBit m sp => exact h
  | reset => exact Decoder.resetValues_inv
  | start n => exact s.dec.start_inv n
  | sym m sp => exact Decoder.sym_inv s.params m sp h
  | nop => exact h

end Sys2Proof.Machine
end

section
namespace Sys2Proof

open Machine

/-- Settles O38: a step changes nothing or performs one operation, and every operation keeps the invariant. -/
theorem everyStepKeepsTheInvariant : Obligations.EveryStepKeepsTheInvariant := by
  intro s t hinv hstep
  rcases step_cases hstep with ⟨_, rfl⟩ | ⟨w, rest, _, rfl⟩
  · exact hinv
  · exact after_inv (decode w) (s := s.setPending rest) hinv

/-- Settles O43: the way from `PAYLOAD` back to `LEAD` is one of the ways to enter `LEAD`. -/
theorem controlStateMovesOnlyForward : Obligations.ControlStateMovesOnlyForward := by
  intro i s t h
  refine ⟨exec_enters_lead h, exec_enters_payload h, fun hpayload hlead => exec_enters_lead h hlead ?_⟩
  simp [hpayload]

/-- Settles O51: the registers count the presented symbols. -/
theorem nextIndexCountsThePresentedSymbols : Obligations.NextIndexCountsThePresentedSymbols := by
  intro s t n ws hquiet hrun hbusy
  exact (runWords_start_countsSymbols rfl hquiet hrun).nextIndex_of_busy (t.outputs_busyO_eq_one_iff.mp hbusy)

/-- Settles O28, operation by operation: each writes one of the two blocks. -/
theorem operationsWriteOnlyTheirOwnBlock : Obligations.OperationsWriteOnlyTheirOwnBlock := by
  intro i s t h
  rcases exec_cases h with
    ⟨_, _, rfl, rfl⟩ | ⟨_, _, rfl, rfl⟩ | ⟨rfl, rfl⟩ | ⟨_, rfl, rfl⟩ | ⟨_, _, rfl, rfl⟩ | ⟨rfl, rfl⟩ <;> simp

/-- Settles O32: both outputs test `st` alone. -/
theorem statusOutputsFollowTheControlState : Obligations.StatusOutputsFollowTheControlState := by
  refine ⟨fun s => ⟨s.outputs_busyO_eq_one_iff, s.outputs_symReadyO_eq_one_iff⟩, fun s s' hst => ?_⟩
  simp [State.outputs, Decoder.busyO, Decoder.symReadyO, hst]

/-- Settles O33: each port reads its register, and the index of the next symbol tests `st`. -/
theorem outputPortsShowTheRegisters : Obligations.OutputPortsShowTheRegisters := fun s =>
  ⟨s.outputs_doneO_eq_one_iff, rfl, rfl, rfl, rfl, rfl, rfl, s.dec.nextIndex_eq_ite⟩

/-- Settles O37: the table of R36 is an idle decoder that holds nothing. -/
theorem invariantHoldsAtReset : Obligations.InvariantHoldsAtReset :=
  ⟨Decoder.resetValues_inv, Decoder.resetValues_holdsNothing, rfl, rfl⟩

/-- Settles O57: each code is the one its table gives. -/
theorem codesFollowTheTables : Obligations.CodesFollowTheTables := by
  unfold Obligations.CodesFollowTheTables
  decide

end Sys2Proof
end

section
/-! What `ctrl` selects, bit by bit (R74), and the cycles of the decoder that are no transfer (R51, R217). -/

namespace Sys2Proof

/-! ### The operation `ctrl` selects -/

section CtrlBits
variable {ctrl : BitVec 3} (count mark space : Word)

theorem decode_ifd_of_rst (hrst : ctrl.getLsbD 2 = true) : decode (.ifd ctrl count mark space) = .reset :=
  if_pos hrst

theorem decode_ifd_of_start (hrst : ctrl.getLsbD 2 = false) (hstart : ctrl.getLsbD 1 = true) :
    decode (.ifd ctrl count mark space) = .start count := by
  rw [decode, decodeIfd, hrst, hstart]
  rfl

theorem decode_ifd_of_sym (hrst : ctrl.getLsbD 2 = false) (hstart : ctrl.getLsbD 1 = false)
    (hvalid : ctrl.getLsbD 0 = true) : decode (.ifd ctrl count mark space) = .sym mark space := by
  rw [decode, decodeIfd, hrst, hstart, hvalid]
  rfl

theorem decode_ifd_of_nop (hrst : ctrl.getLsbD 2 = false) (hstart : ctrl.getLsbD 1 = false)
    (hvalid : ctrl.getLsbD 0 = false) : decode (.ifd ctrl count mark space) = .nop := by
  rw [decode, decodeIfd, hrst, hstart, hvalid]
  rfl

end CtrlBits

namespace Machine

/-! ### The transfer condition -/

theorem Decoder.transfer_ifd_iff (d : Decoder) (ctrl : BitVec 3) (count mark space : Word) :
    d.transfer (.ifd ctrl count mark space) = true ↔
      ctrl.getLsbD 0 = true ∧ d.st ≠ .idle ∧ ctrl.getLsbD 1 = false ∧ ctrl.getLsbD 2 = false := by
  simp [Decoder.transfer, and_assoc]

/-- With `sym_valid_i` low there is no transfer. -/
theorem Decoder.transfer_ifd_of_not_valid (d : Decoder) {ctrl : BitVec 3} (hvalid : ctrl.getLsbD 0 = false)
    (count mark space : Word) : d.transfer (.ifd ctrl count mark space) = false := by
  rw [Decoder.transfer, hvalid]
  rfl

/-! ### Cycles that are no transfer -/

/-- While `IDLE` a presented symbol is not taken. -/
theorem exec_sym_of_idle {s : State} (mark space : Word) (hst : s.dec.st = .idle) :
    exec (.sym mark space) s = .next s := by
  have hdec : s.dec.sym s.params mark space = s.dec := by simp [Decoder.sym, hst]
  rw [exec_eq_after, after, hdec, State.setDec_self]

/-- A cycle that is no `RESET`, no `START` and no transfer is idle, or presents its symbol to an idle decoder. -/
theorem exec_ifd_of_not_transfer {s : State} {ctrl : BitVec 3} {count mark space : Word}
    (hno : s.dec.transfer (.ifd ctrl count mark space) = false) (hstart : ctrl.getLsbD 1 = false)
    (hrst : ctrl.getLsbD 2 = false) : exec (decode (.ifd ctrl count mark space)) s = .next s := by
  cases hvalid : ctrl.getLsbD 0 with
  | false =>
    rw [decode_ifd_of_nop _ _ _ hrst hstart hvalid]
    rfl
  | true =>
    have hidle : s.dec.st = .idle := by
      by_contra hbusy
      simp [(s.dec.transfer_ifd_iff ctrl count mark space).mpr ⟨hvalid, hbusy, hstart, hrst⟩] at hno
    rw [decode_ifd_of_sym _ _ _ hrst hstart hvalid]
    exact exec_sym_of_idle mark space hidle

/-- In a cycle that is no transfer, `sym_valid_i` and the symbol buses make no difference: `RESET` and `START` do not
read them, and any other cycle changes nothing. -/
theorem exec_ifd_without_symbol {s : State} {ctrl : BitVec 3} {count mark space : Word} (mark' space' : Word)
    (hno : s.dec.transfer (.ifd ctrl count mark space) = false) :
    exec (decode (.ifd ctrl count mark space)) s =
      exec (decode (.ifd (ctrl &&& 0b110#3) count mark' space')) s := by
  have hvalid' : (ctrl &&& 0b110#3).getLsbD 0 = false := by simp
  have hstart' : (ctrl &&& 0b110#3).getLsbD 1 = ctrl.getLsbD 1 := by simp
  have hrst' : (ctrl &&& 0b110#3).getLsbD 2 = ctrl.getLsbD 2 := by simp
  cases hrst : ctrl.getLsbD 2 with
  | true => rw [decode_ifd_of_rst _ _ _ hrst, decode_ifd_of_rst _ _ _ (hrst'.trans hrst)]
  | false =>
    cases hstart : ctrl.getLsbD 1 with
    | true =>
      rw [decode_ifd_of_start _ _ _ hrst hstart, decode_ifd_of_start _ _ _ (hrst'.trans hrst) (hstart'.trans hstart)]
    | false =>
      rw [exec_ifd_of_not_transfer hno hstart hrst]
      exact (exec_ifd_of_not_transfer (s.dec.transfer_ifd_of_not_valid hvalid' ..) (hstart'.trans hstart)
        (hrst'.trans hrst)).symm

end Machine

open Machine

/-- Settles O34: by the operation `ctrl` selects, a cycle that is no transfer does not look at its symbol. -/
theorem onlyATransferTakesASymbol : Obligations.OnlyATransferTakesASymbol := by
  intro s ctrl count mark mark' space space'
  refine ⟨?_, fun hno => ?_, fun hno hstart hrst => ?_⟩
  · rw [Decoder.transfer_ifd_iff, State.outputs_symReadyO_eq_one_iff]
  · rw [step_place, step_place]
    exact exec_ifd_without_symbol mark' space' hno
  · exact ⟨s, by rw [step_place, exec_ifd_of_not_transfer hno hstart hrst], rfl⟩

end Sys2Proof
end

section
/-! The payload of a normal frame (R53, R54, R139 to R142): the registers after each recognized payload symbol, up to the
check of the whole word. -/

namespace Sys2Proof.Machine

/-! ### Classes and bits -/

/-- The class of a payload symbol that carries a bit (R53). -/
def bitClass (bit : Bool) : PulseClass := if bit then .bit1 else .bit0

theorem bitClass_ne_unrecognized (bit : Bool) : bitClass bit ≠ .unrecognized := by cases bit <;> decide

@[simp] theorem bitVal_bitClass (bit : Bool) : bitVal (bitClass bit) = bit := by cases bit <;> rfl

theorem bitVal_eq_true_iff (c : PulseClass) : bitVal c = true ↔ c = .bit1 := beq_iff_eq

/-- A recognized payload symbol has the class of the bit it carries. -/
theorem classify_bit_eq_bitClass {p : Params} {m s : Word} (h : classify p m s .bit ≠ .unrecognized) :
    classify p m s .bit = bitClass (bitVal (classify p m s .bit)) := by
  rcases classify_bit_recognized p m s h with e | e <;> rw [e] <;> rfl

/-- The word that the payload symbols of a window spell, payload symbol `b + 1` at bit `b` (R53). -/
def payloadWordOf (p : Params) (s : Nat → PulseSymbol) : Word :=
  BitVec.ofFnLE fun b : Fin 32 => bitVal (classAt p s (b + 1) .bit)

theorem getLsbD_payloadWordOf (p : Params) (s : Nat → PulseSymbol) {b : Nat} (hb : b < 32) :
    (payloadWordOf p s).getLsbD b = bitVal (classAt p s (b + 1) .bit) := by
  rw [payloadWordOf, BitVec.getLsbD_ofFnLE, dif_pos hb]

/-! ### The registers during the payload -/

/-- The registers in the payload of a normal frame with the bits of `w` below `k` in. -/
def Decoder.payloadAt (w : Word) (k : Nat) : Decoder where
  st := .payload
  kind := .kNormal
  idx := BitVec.ofNat 6 k
  acc := (w.setWidth k).setWidth 32
  done := false
  result := .none
  reason := .none
  badIndex := 0#6
  cmd := 0#8
  addr := 0#8
  raw := 0#32

@[simp] theorem Decoder.payloadAt_st (w : Word) (k : Nat) : (payloadAt w k).st = .payload := rfl
@[simp] theorem Decoder.payloadAt_idx (w : Word) (k : Nat) : (payloadAt w k).idx = BitVec.ofNat 6 k := rfl
@[simp] theorem Decoder.payloadAt_acc_full (w : Word) : (payloadAt w 32).acc = w := by simp [payloadAt]

/-- One more bit of the word above those already in. -/
theorem setWidth_or_placedBit (w : Word) {k : Nat} (hk : k < 32) :
    (w.setWidth k).setWidth 32 ||| placedBit (w.getLsbD k) k = (w.setWidth (k + 1)).setWidth 32 := by
  refine BitVec.eq_of_getLsbD_eq fun i hi => ?_
  simp only [BitVec.getLsbD_or, BitVec.getLsbD_setWidth, getLsbD_placedBit, hi, decide_true, Bool.true_and]
  rcases Nat.lt_trichotomy i k with h | rfl | h
  · simp [h, Nat.lt_succ_of_lt h, h.ne]
  · simp
  · have hout : ¬ i < k + 1 := by omega
    simp [h.ne', h.not_gt, hout]

theorem Decoder.addBit_payloadAt (w : Word) {k : Nat} (hk : k < 32) :
    (payloadAt w k).addBit (w.getLsbD k) = payloadAt w (k + 1) := by
  have hacc := setWidth_or_placedBit w hk
  have hpos : (BitVec.ofNat 6 k).toNat = k := by rw [BitVec.toNat_ofNat]; omega
  simp [Decoder.addBit, payloadAt, BitVec.ofNat_add, hpos, hacc]

/-- After the lead of a normal frame the payload begins with no bit in. -/
theorem Decoder.sym_start_normal (d : Decoder) (w : Word) {p : Params} {m s : Word}
    (hlead : classify p m s .lead = .leadNormal) : (d.start 33#32).sym p m s = payloadAt w 0 := by
  have hacc : (w.setWidth 0).setWidth 32 = 0#32 := by
    rw [BitVec.eq_nil (w.setWidth 0)]
    rfl
  rw [payloadAt, hacc]
  exact if_pos hlead

/-- A recognized payload symbol puts in its bit, and the 32nd brings the check of the whole word at the same edge. -/
theorem Decoder.sym_payloadAt {p : Params} {w : Word} {k : Nat} {m s : Word} (hk : k < 32)
    (hclass : classify p m s .bit = bitClass (w.getLsbD k)) :
    (payloadAt w k).sym p m s = if k = 31 then (payloadAt w 32).validate else payloadAt w (k + 1) := by
  have hlast : (payloadAt w k).idx = 31#6 ↔ k = 31 := by
    rw [payloadAt_idx, ← BitVec.toNat_inj, BitVec.toNat_ofNat, BitVec.toNat_ofNat]
    omega
  have hsym : (payloadAt w k).sym p m s = (payloadAt w k).acceptBit (w.getLsbD k) := by
    simp [Decoder.sym, Decoder.symPayload, hclass, bitClass_ne_unrecognized]
  rw [hsym, Decoder.acceptBit, addBit_payloadAt w hk]
  by_cases h31 : k = 31
  · subst h31
    rw [if_pos (hlast.mpr rfl), if_pos rfl]
  · rw [if_neg (mt hlast.mp h31), if_neg h31]

/-- The rest of a payload whose symbols carry the bits of `w` from bit `k` on, with anything after it. -/
theorem Decoder.feed_payloadAt {p : Params} {w : Word} {l : List PulseSymbol} {k : Nat} (hk : k < 32)
    (hlen : 32 ≤ k + l.length)
    (hclass : ∀ j, k + j < 32 → classAt p (windowOf l) j .bit = bitClass (w.getLsbD (k + j))) :
    Decoder.feed p l (payloadAt w k) = (payloadAt w 32).validate := by
  induction l generalizing k with
  | nil => exact absurd hk (Nat.not_lt.mpr hlen)
  | cons x l ih =>
    have hfirst : classify p x.mark x.space .bit = bitClass (w.getLsbD k) := hclass 0 hk
    rw [feed_cons, sym_payloadAt hk hfirst]
    by_cases h31 : k = 31
    · rw [if_pos h31, feed_idle _ _ _ (validate_st _)]
    · rw [if_neg h31]
      rw [List.length_cons] at hlen
      refine ih (by omega) (by omega) fun j hj => ?_
      rw [show k + 1 + j = k + (j + 1) by omega]
      exact hclass (j + 1) (by omega)

/-- A whole normal frame whose payload symbols carry the bits of `w` ends with the check of `w`. -/
theorem Decoder.feed_normalFrame {p : Params} {w : Word} {l : List PulseSymbol} (d : Decoder) (hlen : 33 ≤ l.length)
    (hlead : classAt p (windowOf l) 0 .lead = .leadNormal)
    (hclass : ∀ b < 32, classAt p (windowOf l) (b + 1) .bit = bitClass (w.getLsbD b)) :
    Decoder.feed p l (d.start 33#32) = (payloadAt w 32).validate := by
  cases l with
  | nil => simp at hlen
  | cons x l =>
    have hx : classify p x.mark x.space .lead = .leadNormal := hlead
    rw [feed_cons, sym_start_normal d w hx]
    rw [List.length_cons] at hlen
    refine feed_payloadAt (by decide) (by omega) fun j hj => ?_
    rw [Nat.zero_add] at hj ⊢
    exact hclass j hj

/-! ### The checked word -/

@[simp] theorem Decoder.validate_raw (d : Decoder) : d.validate.raw = d.acc := by
  rcases d.validate_cases with ⟨_, e⟩ | ⟨_, e⟩ <;> rw [e] <;> rfl

/-- A command's two bytes are the word's. -/
theorem Decoder.validate_bytes_of_command {d : Decoder} (h : d.validate.result = .command) :
    d.validate.cmd = commandOf d.acc ∧ d.validate.addr = addressOf d.acc := by
  rcases d.validate_cases with ⟨_, e⟩ | ⟨_, e⟩
  · rw [e]
    exact ⟨rfl, rfl⟩
  · simp [e] at h

theorem getLsbD_commandOf (w : Word) {b : Nat} (hb : b < 8) : (commandOf w).getLsbD b = w.getLsbD (16 + b) := by
  simp [commandOf, hb]

theorem getLsbD_addressOf (w : Word) {b : Nat} (hb : b < 8) : (addressOf w).getLsbD b = w.getLsbD b := by
  simp [addressOf, hb]

/-- The registers after a normal frame whose payload symbols are all recognized. -/
theorem runWords_recognizedFrame_dec {s t : State} {ws : List PortWord} (hquiet : ∀ w ∈ ws, isQuiet w = true)
    (hlen : 33 ≤ (presentedSymbols ws).length)
    (hlead : classAt s.params (windowOf (presentedSymbols ws)) 0 .lead = .leadNormal)
    (hrec : ∀ k, 1 ≤ k → k ≤ 32 → classAt s.params (windowOf (presentedSymbols ws)) k .bit ≠ .unrecognized)
    (hrun : runWords (encode (.start 33#32) :: ws) s = .next t) :
    t.dec = (Decoder.payloadAt (payloadWordOf s.params (windowOf (presentedSymbols ws))) 32).validate := by
  rw [runWords_start_dec rfl hquiet hrun]
  refine Decoder.feed_normalFrame s.dec hlen hlead fun b hb => ?_
  rw [getLsbD_payloadWordOf _ _ hb]
  exact classify_bit_eq_bitClass (hrec (b + 1) (by omega) (by omega))

end Sys2Proof.Machine

namespace Sys2Proof

open Machine

/-- Settles O50: the word the payload symbols spell is the one that is checked. -/
theorem payloadSymbolsArriveLeastSignificantFirst : Obligations.PayloadSymbolsArriveLeastSignificantFirst := by
  intro s t ws hquiet hlen hlead hrec hrun
  have hdec := runWords_recognizedFrame_dec hquiet hlen hlead hrec hrun
  have hbit : ∀ b < 32, (payloadWordOf s.params (windowOf (presentedSymbols ws))).getLsbD b = true ↔
      classAt s.params (windowOf (presentedSymbols ws)) (b + 1) .bit = .bit1 := fun b hb => by
    rw [getLsbD_payloadWordOf _ _ hb, bitVal_eq_true_iff]
  constructor
  · intro b hb
    rw [hdec, Decoder.validate_raw, Decoder.payloadAt_acc_full]
    exact hbit b hb
  · intro hcommand b hb
    rw [hdec] at hcommand ⊢
    obtain ⟨hcmd, haddr⟩ := Decoder.validate_bytes_of_command hcommand
    rw [hcmd, haddr, Decoder.payloadAt_acc_full, getLsbD_commandOf _ hb, getLsbD_addressOf _ hb,
      show 17 + b = 16 + b + 1 by omega, Nat.add_comm 1 b]
    exact ⟨hbit (16 + b) (by omega), hbit b (by omega)⟩

end Sys2Proof
end

section
/-! The halves of the payload word (R55), and the container of the next operation's word (R83). -/

namespace Sys2Proof

namespace Machine

/-! ### The bytes of the payload word in pairs -/

theorem extractLsb_upper_half (w : Word) : w.extractLsb 31 16 = commandComplementOf w ++ commandOf w :=
  (BitVec.extractLsb'_append_extractLsb'_eq_extractLsb' (x := w) (start₁ := 16) (len₁ := 8) (len₂ := 8) rfl).symm

theorem extractLsb_lower_half (w : Word) : w.extractLsb 15 0 = addressComplementOf w ++ addressOf w :=
  (BitVec.extractLsb'_append_extractLsb'_eq_extractLsb' (x := w) (start₁ := 0) (len₁ := 8) (len₂ := 8) rfl).symm

/-- The complement check, by its two byte pairs. -/
theorem complementOk_iff_bytes (w : Word) : complementOk w = true ↔
    addressComplementOf w = ~~~addressOf w ∧ commandComplementOf w = ~~~commandOf w := by
  simp [complementOk]

end Machine

/-! ### Decoding a container -/

/-- A container decodes to the operation of the word it holds. -/
theorem decodeBytes_eq_ok_iff (fmt : Format) (bs : List Byte) (i : Instr) :
    decodeBytes fmt bs = .ok i ↔ ∃ w, parseBytes fmt bs = .ok w ∧ decode w = i := by
  unfold decodeBytes
  cases parseBytes fmt bs <;> simp

open Machine

/-- Settles O27: the two bytes of each half stand side by side, and the check makes the upper one the complement. -/
theorem payloadHalvesPairEachByteWithItsComplement : Obligations.PayloadHalvesPairEachByteWithItsComplement := by
  intro w
  refine ⟨extractLsb_upper_half w, extractLsb_lower_half w, fun hok hcommand => ?_⟩
  obtain ⟨_, hcomplement⟩ := (complementOk_iff_bytes w).mp hok
  rw [extractLsb_upper_half, hcomplement, hcommand]
  rfl

/-- Settles O29: the fetch answers the oldest pending word, or an idle cycle. -/
theorem stepPerformsTheNextOperation : Obligations.StepPerformsTheNextOperation := by
  refine ⟨fun s w rest => step_cons, fun s fmt bs i rest hbytes => ?_, fun s => step_nil⟩
  obtain ⟨w, hparse, rfl⟩ := (decodeBytes_eq_ok_iff fmt bs i).mp hbytes
  exact ⟨w, hparse, step_cons⟩

end Sys2Proof
end

section
/-! Operation words and their meanings both ways (R70, R73, R74, R81): the decoder undoes the encoder, a word reads back
from its number and from its bytes (log 9), and a placed opcode-table word is the next one performed (log 10). -/

namespace Sys2Proof

/-! ### Encoding and decoding a word -/

theorem decode_ipcWord (role : BitVec 1) (mark space : Word) : decode (ipcWord role mark space) =
    if role.getLsbD 0 then .classifyBit mark space else .classifyLead mark space := by
  rw [ipcWord, decode, decodeIpc, ipc_role, ipcMark_append, ipcSpace_append]

theorem decode_encode (i : Instr) : decode (encode i) = i := by
  cases i with
  | classifyLead mark space => exact decode_ipcWord 0#1 mark space
  | classifyBit mark space => exact decode_ipcWord 1#1 mark space
  | reset => rfl
  | start count => rfl
  | sym mark space => rfl
  | nop => rfl

/-- The fields of an IPC word side by side are the word. -/
theorem ipc_fields_append (w : BitVec 65) : w.extractLsb' 64 1 ++ ipcMark w ++ ipcSpace w = w := by
  have hupper : w.extractLsb' 64 1 ++ ipcMark w = w.extractLsb' 32 33 :=
    BitVec.extractLsb'_append_extractLsb'_eq_extractLsb' rfl
  have hword : w.extractLsb' 32 33 ++ ipcSpace w = w.extractLsb' 0 65 :=
    BitVec.extractLsb'_append_extractLsb'_eq_extractLsb' rfl
  rw [hupper, hword, BitVec.extractLsb'_eq_self]

theorem encode_decodeIpc (w : BitVec 65) :
    encode (decodeIpc w) = ipcWord (w.extractLsb' 64 1) (ipcMark w) (ipcSpace w) := by
  have hrole : w.extractLsb' 64 1 = BitVec.ofBool (w.getLsbD 64) := by
    ext i hi
    obtain rfl : i = 0 := by omega
    simp
  rw [decodeIpc, hrole]
  cases w.getLsbD 64 <;> rfl

/-! ### An operation word as a number -/

theorem append_toNat_div {n m : Nat} (hi : BitVec n) (lo : BitVec m) : (hi ++ lo).toNat / 2 ^ m = hi.toNat := by
  rw [BitVec.toNat_append, ← Nat.shiftLeft_add_eq_or_of_lt lo.isLt, Nat.shiftLeft_eq, Nat.add_comm,
    Nat.add_mul_div_right _ _ (Nat.two_pow_pos m), Nat.div_eq_of_lt lo.isLt, Nat.zero_add]

theorem PortWord.bits_lt (w : PortWord) : w.bits < 2 ^ w.format.bits := by
  cases w with
  | ipc w => exact w.isLt
  | ifd ctrl count mark space => exact (space ++ mark ++ count ++ ctrl).isLt

/-- Every bus is read back from the number of its word. -/
theorem PortWord.ofBits_bits (w : PortWord) : PortWord.ofBits w.format w.bits = w := by
  cases w with
  | ipc w => exact congrArg PortWord.ipc ((BitVec.ofNat_toNat 65 w).trans (BitVec.setWidth_eq w))
  | ifd ctrl count mark space =>
    have hcount : (space ++ mark ++ count ++ ctrl).toNat / 2 ^ 3 = (space ++ mark ++ count).toNat :=
      append_toNat_div _ ctrl
    have hmark : (space ++ mark ++ count ++ ctrl).toNat / 2 ^ 35 = (space ++ mark).toNat := by
      rw [Nat.pow_add 2 3 32, ← Nat.div_div_eq_div_mul, hcount, append_toNat_div]
    have hspace : (space ++ mark ++ count ++ ctrl).toNat / 2 ^ 67 = space.toNat := by
      rw [Nat.pow_add 2 35 32, ← Nat.div_div_eq_div_mul, hmark, append_toNat_div]
    simp only [format, bits, ofBits, hcount, hmark, hspace, BitVec.ofNat_toNat,
      BitVec.setWidth_append_eq_right, BitVec.setWidth_eq]

/-! ### The byte container -/

theorem Format.two_pow_bits_le (fmt : Format) : 2 ^ fmt.bits ≤ 256 ^ fmt.bytes := by cases fmt <;> decide

theorem PortWord.length_toBytes (w : PortWord) : w.toBytes.length = w.format.bytes := length_natToBytes _ _

theorem PortWord.bytesToNat_toBytes (w : PortWord) : bytesToNat w.toBytes = w.bits :=
  bytesToNat_natToBytes _ _ (w.bits_lt.trans_le w.format.two_pow_bits_le)

theorem parseBytes_of_length_ne {fmt : Format} {bs : List Byte} (h : bs.length ≠ fmt.bytes) :
    parseBytes fmt bs = .error .wrongLength := if_pos h

theorem parseBytes_of_le {fmt : Format} {bs : List Byte} (hlen : bs.length = fmt.bytes)
    (h : 2 ^ fmt.bits ≤ bytesToNat bs) : parseBytes fmt bs = .error .paddingSet := by
  rw [parseBytes, if_neg (not_not_intro hlen), if_pos h]

theorem parseBytes_of_lt {fmt : Format} {bs : List Byte} (hlen : bs.length = fmt.bytes)
    (h : bytesToNat bs < 2 ^ fmt.bits) : parseBytes fmt bs = .ok (.ofBits fmt (bytesToNat bs)) := by
  rw [parseBytes, if_neg (not_not_intro hlen), if_neg (Nat.not_le.mpr h)]

/-- A word reads back from its bytes, the buses its operation does not read included. -/
theorem parseBytes_toBytes (w : PortWord) : parseBytes w.format w.toBytes = .ok w := by
  have hbits := w.bytesToNat_toBytes
  rw [parseBytes_of_lt w.length_toBytes (hbits ▸ w.bits_lt), hbits, w.ofBits_bits]

theorem decodeBytes_of_error {fmt : Format} {bs : List Byte} {e : DecodeError} (h : parseBytes fmt bs = .error e) :
    decodeBytes fmt bs = .error e := by
  rw [decodeBytes, h]

open Machine

theorem decodeTableWord_eq_some_iff (nbits n : Nat) (i : Instr) :
    decodeTableWord nbits n = some i ↔ ∃ w, tableWord nbits n = .ok w ∧ decode w = i := by
  unfold decodeTableWord
  cases tableWord nbits n <;> simp

theorem Machine.State.withFetchWord_of_ok {nbits n : Nat} {w : PortWord} (s : State) (h : tableWord nbits n = .ok w) :
    s.withFetchWord nbits n = s.place w := by
  rw [State.withFetchWord, h]

/-- Settles O5: by the operation's constructors as a word, and by the container's losing nothing as bytes. -/
theorem decodeOfEncodeIsTheOperation : Obligations.DecodeOfEncodeIsTheOperation := fun i _ =>
  ⟨decode_encode i, (decodeBytes_eq_ok_iff _ _ i).mpr ⟨encode i, parseBytes_toBytes (encode i), decode_encode i⟩⟩

/-- Settles O6: the encoder writes the three fields of the word side by side again. -/
theorem encodeOfDecodeIsTheClassifierWord : Obligations.EncodeOfDecodeIsTheClassifierWord := fun w =>
  (encode_decodeIpc w).trans (congrArg PortWord.ipc (ipc_fields_append w))

/-- Settles O7: the number of a word fits in its bytes and gives every bus back. -/
theorem everyWordReadsBackFromItsBytes : Obligations.EveryWordReadsBackFromItsBytes := by
  refine ⟨parseBytes_toBytes, fun fmt bs hlen => ?_, fun fmt bs hlen hle => ?_, fun fmt bs hlen hlt => ?_⟩
  · exact decodeBytes_of_error (parseBytes_of_length_ne hlen)
  · exact decodeBytes_of_error (parseBytes_of_le hlen hle)
  · exact ⟨_, (decodeBytes_eq_ok_iff fmt bs _).mpr ⟨_, parseBytes_of_lt hlen hlt, rfl⟩⟩

/-- Settles O30: the word the decoder reads `i` from is the one placed in front, and the step takes it. -/
theorem placedWordIsPerformedNext : Obligations.PlacedWordIsPerformedNext := by
  intro s nbits n i hdecode
  obtain ⟨w, hword, rfl⟩ := (decodeTableWord_eq_some_iff nbits n i).mp hdecode
  rw [s.withFetchWord_of_ok hword, step_place]

end Sys2Proof
end

section
/-! The opcode table's rows (R70, R74): the masks of the IPC rows read `role` alone and those of the IFD rows `ctrl`
alone, and so does the decoder where it selects the operation. -/

namespace Sys2Proof

theorem TableRow.selects_of_format_ne {r : TableRow} {w : PortWord} (h : r.format ≠ w.format) :
    r.selects w = false := by
  rw [TableRow.selects, beq_false_of_ne h, Bool.false_and]

/-! ### IPC rows -/

/-- Every row that can select an IPC word has the mask of `role`. -/
theorem mask_eq_of_mem_opcodeTable : ∀ r ∈ opcodeTable, r.format = .ipc → r.mask = 2 ^ 64 := by decide

/-- A row selects an IPC word by `role` alone. -/
theorem selects_ipc_congr {r : TableRow} (hr : r ∈ opcodeTable) {w w' : BitVec 65}
    (hrole : w.getLsbD 64 = w'.getLsbD 64) : r.selects (.ipc w) = r.selects (.ipc w') := by
  by_cases hf : r.format = .ipc
  · rw [TableRow.selects, TableRow.selects, mask_eq_of_mem_opcodeTable r hr hf, ipc_bits_and, ipc_bits_and, hrole]
    rfl
  · rw [TableRow.selects_of_format_ne hf, TableRow.selects_of_format_ne hf]

theorem mnemonic_decodeIpc (w : BitVec 65) :
    (decodeIpc w).mnemonic = if w.getLsbD 64 then "CLASSIFY.BIT" else "CLASSIFY.LEAD" := by
  rw [decodeIpc, apply_ite Instr.mnemonic]
  rfl

/-! ### IFD rows -/

/-- No row that can select an IFD word has a mask beyond `ctrl`. -/
theorem mask_lt_of_mem_opcodeTable : ∀ r ∈ opcodeTable, r.format = .ifd → r.mask < 8 := by decide

/-- A row selects an IFD word by `ctrl` alone. -/
theorem selects_ifd_of_mem {r : TableRow} (hr : r ∈ opcodeTable) (ctrl : BitVec 3) (count mark space : Word) :
    r.selects (.ifd ctrl count mark space) = r.selects (.ifd ctrl 0#32 0#32 0#32) := by
  by_cases hf : r.format = .ifd
  · have hmask := mask_lt_of_mem_opcodeTable r hr hf
    rw [TableRow.selects, TableRow.selects, ifd_bits_and _ _ _ _ hmask, ifd_bits_and _ _ _ _ hmask]
    rfl
  · rw [TableRow.selects_of_format_ne hf, TableRow.selects_of_format_ne hf]

theorem mnemonic_decodeIfd (ctrl : BitVec 3) (count mark space : Word) :
    (decodeIfd ctrl count mark space).mnemonic = (decodeIfd ctrl 0#32 0#32 0#32).mnemonic := by
  simp only [decodeIfd, apply_ite Instr.mnemonic]
  rfl

/-- Each of the eight values of `ctrl` is selected by one row, the one of its operation. -/
theorem selected_row_of_ctrl : ∀ ctrl : BitVec 3,
    (opcodeTable.filter fun r => r.selects (.ifd ctrl 0#32 0#32 0#32)).map TableRow.mnemonic =
      [(decodeIfd ctrl 0#32 0#32 0#32).mnemonic] := by decide

/-- Settles O2: the IPC rows differ in the value of `role`, which selects the operation too. -/
theorem roleAloneSelectsTheClassifierOperation : Obligations.RoleAloneSelectsTheClassifierOperation := by
  refine fun w => ⟨rfl, ?_⟩
  rw [decode, mnemonic_decodeIpc]
  cases hrole : w.getLsbD 64 with
  | false =>
    rw [List.filter_congr fun r hr => selects_ipc_congr hr (w' := 0#1 ++ 0#64) hrole]
    decide
  | true =>
    rw [List.filter_congr fun r hr => selects_ipc_congr hr (w' := 1#1 ++ 0#64) hrole]
    decide

/-- Settles O3: the decoder and the rows' masks look at `ctrl` alone, which has eight values. -/
theorem everyCtrlValueSelectsOneOperation : Obligations.EveryCtrlValueSelectsOneOperation := by
  intro ctrl count mark space
  refine ⟨decode_ifd_of_rst count mark space, decode_ifd_of_start count mark space, ?_, ?_, ?_⟩
  · rintro rfl
    rfl
  · rintro rfl
    rfl
  · rw [List.filter_congr fun r hr => selects_ifd_of_mem hr ctrl count mark space, decode, mnemonic_decodeIfd]
    exact selected_row_of_ctrl ctrl

/-- Settles O4: what the operation reads is an argument of it, and the words agree on that. -/
theorem unreadBusesAreIgnored : Obligations.UnreadBusesAreIgnored := by
  intro ctrl count count' mark mark' space space'
  refine ⟨?_, ?_, ?_⟩
  · rintro (hrst | rfl)
    · rw [decode_ifd_of_rst _ _ _ hrst, decode_ifd_of_rst _ _ _ hrst]
    · rfl
  · rintro ⟨hrst, hstart⟩
    rw [decode_ifd_of_start _ _ _ hrst hstart, decode_ifd_of_start _ _ _ hrst hstart]
  · rintro rfl
    rfl

/-- Settles O1: the decoder runs on eight fixed words. -/
theorem writtenOutWordsDecode : Obligations.WrittenOutWordsDecode := by
  unfold Obligations.WrittenOutWordsDecode
  decide

end Sys2Proof
end

section
/-! The nominal windows of R84: what their symbols are, how they classify, and the registers they end with. -/

namespace Sys2Proof

open Machine

/-! ### A window of symbols, one in each cycle -/

theorem symbolWord_isQuiet (x : PulseSymbol) : isQuiet (symbolWord x) = true := rfl

@[simp] theorem presentedSymbols_map_symbolWord (l : List PulseSymbol) : presentedSymbols (l.map symbolWord) = l := by
  induction l with
  | nil => rfl
  | cons x l ih => exact congrArg (x :: ·) ih

/-- A window with no idle cycle runs to the registers of the started decoder fed its symbols. -/
theorem runWords_window (s : State) (n : Word) (l : List PulseSymbol) :
    ∃ t, runWords (encode (.start n) :: l.map symbolWord) s = .next t ∧
      t.dec = Decoder.feed s.params l (s.dec.start n) := by
  have hrun := runWords_eq (encode (.start n) :: l.map symbolWord) s
  have hquiet : ∀ w ∈ l.map symbolWord, isQuiet w = true := List.forall_mem_map.mpr fun x _ => symbolWord_isQuiet x
  refine ⟨_, hrun, ?_⟩
  rw [runWords_start_dec rfl hquiet hrun, presentedSymbols_map_symbolWord]

/-! ### The classes of the nominal symbols -/

section Nominal
variable {p : Params}

theorem classify_leadNormalSym : classify p p.tLeadMark p.tLeadSpaceNormal .lead = .leadNormal := by
  simp [classify, classifyAsLead, within_self]

theorem classify_leadRepeatSym (happart : within p p.tLeadSpaceRepeat p.tLeadSpaceNormal = false) :
    classify p p.tLeadMark p.tLeadSpaceRepeat .lead = .leadRepeat := by
  simp [classify, classifyAsLead, within_self, happart]

theorem classify_bitSym (happart : within p p.tBitSpace1 p.tBitSpace0 = false) (bit : Bool) :
    classify p p.tBitMark (if bit then p.tBitSpace1 else p.tBitSpace0) .bit = bitClass bit := by
  cases bit <;> simp [classify, classifyAsBit, within_self, happart, bitClass]

end Nominal

namespace Machine

/-! ### The lines of a payload -/

theorem payloadSyms_getElem? (p : Params) (w : Word) {b : Nat} (hb : b < 32) :
    (payloadSyms p w)[b]? = some (bitSym p (w.getLsbD b)) := by
  simp [payloadSyms, hb]

/-! ### The windows of the pseudo-operations -/

/-- The 33 symbols of `FRAMEW w` (R84). -/
def frameSymbols (p : Params) (w : Word) : List PulseSymbol :=
  ⟨p.tLeadMark, p.tLeadSpaceNormal⟩ ::
    (List.range 32).map fun b => ⟨p.tBitMark, if w.getLsbD b then p.tBitSpace1 else p.tBitSpace0⟩

theorem length_frameSymbols (p : Params) (w : Word) : (frameSymbols p w).length = 33 := rfl

theorem windowOf_frameSymbols_succ (p : Params) (w : Word) {b : Nat} (hb : b < 32) :
    windowOf (frameSymbols p w) (b + 1) = ⟨p.tBitMark, if w.getLsbD b then p.tBitSpace1 else p.tBitSpace0⟩ := by
  simp [windowOf, frameSymbols, hb]

theorem assemble_frameW (p : Params) (w : Word) :
    assemble p [.frameW w] = encode (.start 33#32) :: (frameSymbols p w).map symbolWord := rfl

/-- From any state `FRAMEW w` ends with the check of `w`. -/
theorem runWords_frameW (s : State) (w : Word)
    (happart : within s.params s.params.tBitSpace1 s.params.tBitSpace0 = false) :
    ∃ t, runWords (assemble s.params [.frameW w]) s = .next t ∧ t.dec = (Decoder.payloadAt w 32).validate := by
  obtain ⟨t, hrun, hdec⟩ := runWords_window s 33#32 (frameSymbols s.params w)
  refine ⟨t, hrun, hdec.trans ?_⟩
  refine Decoder.feed_normalFrame s.dec (length_frameSymbols _ w).ge classify_leadNormalSym fun b hb => ?_
  rw [classAt, windowOf_frameSymbols_succ _ w hb]
  exact classify_bitSym happart (w.getLsbD b)

/-! ### The outcome of a payload word -/

/-- What the result registers hold after the check of a payload word is R150's verdict on it. -/
theorem Decoder.validate_payloadAt (w : Word) :
    (payloadAt w 32).validate.done = true ∧ (payloadAt w 32).validate.decoded = decodedWord w := by
  have hcheck := (payloadAt w 32).validate_cases
  rw [payloadAt_acc_full] at hcheck
  obtain ⟨hok, e⟩ | ⟨hok, e⟩ := hcheck <;> rw [e, decodedWord, hok] <;> exact ⟨rfl, rfl⟩

theorem complementOk_frameWord (a c : Byte) : complementOk (frameWord a c) = true := by
  rw [complementOk_iff_bytes, frameWord, addressComplementOf_bytes, addressOf_bytes, commandComplementOf_bytes,
    commandOf_bytes]
  exact ⟨rfl, rfl⟩

theorem decodedWord_frameWord (a c : Byte) :
    decodedWord (frameWord a c) = ⟨.command, .none, 0#6, c, a, frameWord a c⟩ := by
  rw [decodedWord, if_pos (complementOk_frameWord a c), frameWord, commandOf_bytes, addressOf_bytes]

end Machine

/-- Settles O54: the payload symbols carry the bits of `w`, and the check of `w` has two outcomes. -/
theorem framewDecodesToItsWord : Obligations.FramewDecodesToItsWord := by
  intro s w happart
  obtain ⟨t, hrun, hdec⟩ := runWords_frameW s w happart
  have hcheck := (Decoder.payloadAt w 32).validate_cases
  rw [← hdec, Decoder.payloadAt_acc_full] at hcheck
  refine ⟨t, hrun, ?_⟩
  obtain ⟨hok, e⟩ | ⟨hok, e⟩ := hcheck <;> rw [e, hok]
  · exact ⟨rfl, rfl, rfl, fun _ => ⟨rfl, rfl, rfl, rfl⟩, nofun⟩
  · exact ⟨rfl, rfl, rfl, nofun, fun _ => ⟨rfl, rfl, rfl, rfl⟩⟩

/-- Settles O55: the word of `FRAME` passes the check, by its bytes. -/
theorem frameDecodesToItsCommand : Obligations.FrameDecodesToItsCommand := by
  intro s a c happart
  obtain ⟨t, hrun, hdec⟩ := runWords_frameW s (frameWord a c) happart
  obtain ⟨hdone, hdecoded⟩ := Decoder.validate_payloadAt (frameWord a c)
  refine ⟨rfl, t, hrun, ?_⟩
  rw [hdec]
  exact ⟨hdone, hdecoded.trans (decodedWord_frameWord a c)⟩

/-- Settles O56: the one symbol of `RFRAME` is a repeat lead, and the `START` has cleared the other registers. -/
theorem repeatFrameDecodesToRepeat : Obligations.RepeatFrameDecodesToRepeat := by
  intro s happart
  obtain ⟨t, hrun, hdec⟩ := runWords_window s 1#32 [⟨s.params.tLeadMark, s.params.tLeadSpaceRepeat⟩]
  have hsym : (s.dec.start 1#32).sym s.params s.params.tLeadMark s.params.tLeadSpaceRepeat =
      (s.dec.start 1#32).finish .repeated .none := if_pos (classify_leadRepeatSym happart)
  rw [Decoder.feed_cons, hsym, Decoder.feed_nil] at hdec
  refine ⟨t, hrun, ?_⟩
  rw [hdec]
  exact ⟨rfl, rfl⟩

/-- Settles O58: the lines as the definitions write them, and a payload's line by its position. -/
theorem pseudoOperationsExpandAsTheTableSays : Obligations.PseudoOperationsExpandAsTheTableSays := fun p w _ _ _ =>
  ⟨rfl, rfl, rfl, rfl, rfl, fun _ => payloadSyms_getElem? p w, rfl, rfl, rfl, rfl⟩

end Sys2Proof
end

section
/-! The tolerance test as a distance over the integers (R101, R102, R107), and the two space windows of a role: what they
share where they overlap (R103), and that a separated configuration keeps them apart (R108). -/

namespace Sys2Proof.Machine

/-! ### The tolerance test -/

theorem absdiff_eq_natAbs (o r : Word) : absdiff o r = ((o.toNat : Int) - (r.toNat : Int)).natAbs := by
  unfold absdiff
  split <;> omega

/-- The distance of two durations fits in their 32 bits. -/
theorem absdiff_le (o r : Word) : absdiff o r ≤ 2 ^ 32 - 1 := by
  have ho := o.isLt
  have hr := r.isLt
  rw [absdiff_eq_natAbs]
  omega

theorem within_iff_natAbs (p : Params) (o r : Word) :
    within p o r = true ↔ ((o.toNat : Int) - (r.toNat : Int)).natAbs ≤ p.margin.toNat := by
  rw [within, decide_eq_true_eq, absdiff_eq_natAbs]

/-- The durations outside the window, below it or above it. -/
theorem within_eq_false_iff (p : Params) (o r : Word) : within p o r = false ↔
    o.toNat + p.margin.toNat < r.toNat ∨ r.toNat + p.margin.toNat < o.toNat := by
  rw [← Bool.not_eq_true, within_iff]
  omega

/-! ### Two windows -/

/-- Where a duration lies in the windows of two references, twice the margin spans their distance. -/
theorem distance_le_of_within {p : Params} {o r r' : Word} (h : within p o r = true) (h' : within p o r' = true) :
    ((r.toNat : Int) - (r'.toNat : Int)).natAbs ≤ 2 * p.margin.toNat := by
  rw [within_iff_natAbs] at h h'
  omega

theorem separated_iff (p : Params) : separated p = true ↔
    2 * p.margin.toNat < ((p.tLeadSpaceNormal.toNat : Int) - (p.tLeadSpaceRepeat.toNat : Int)).natAbs ∧
    2 * p.margin.toNat < ((p.tBitSpace1.toNat : Int) - (p.tBitSpace0.toNat : Int)).natAbs := by
  rw [separated, Bool.and_eq_true, decide_eq_true_eq, decide_eq_true_eq, absdiff_eq_natAbs, absdiff_eq_natAbs]

/-- With the default references the bit spaces, 1130 apart, decide whether a configuration is separated. -/
theorem separated_nominal_iff (margin : Word) : separated (Params.nominal margin) = true ↔ margin.toNat ≤ 564 := by
  rw [separated_iff]
  change 2 * margin.toNat < ((4500 : Int) - 2250).natAbs ∧ 2 * margin.toNat < ((1690 : Int) - 560).natAbs ↔ _
  omega

/-! ### The class of a symbol -/

theorem classifyAsLead_eq_leadNormal {p : Params} {m s : Word} (hmark : within p m p.tLeadMark = true)
    (hspace : within p s p.tLeadSpaceNormal = true) : classifyAsLead p m s = .leadNormal := by
  simp [classifyAsLead, hmark, hspace]

theorem classifyAsBit_eq_bit0 {p : Params} {m s : Word} (hmark : within p m p.tBitMark = true)
    (hspace : within p s p.tBitSpace0 = true) : classifyAsBit p m s = .bit0 := by
  simp [classifyAsBit, hmark, hspace]

theorem classifyAsLead_eq_unrecognized_iff (p : Params) (m s : Word) : classifyAsLead p m s = .unrecognized ↔
    within p m p.tLeadMark = false ∨
      (within p s p.tLeadSpaceNormal = false ∧ within p s p.tLeadSpaceRepeat = false) := by
  rcases classifyAsLead_cases p m s with ⟨hm, hn, e⟩ | ⟨hm, _, hr, e⟩ | ⟨hout, e⟩
  · simp [e, hm, hn]
  · simp [e, hm, hr]
  · simp [e, hout]

theorem classifyAsBit_eq_unrecognized_iff (p : Params) (m s : Word) : classifyAsBit p m s = .unrecognized ↔
    within p m p.tBitMark = false ∨ (within p s p.tBitSpace0 = false ∧ within p s p.tBitSpace1 = false) := by
  rcases classifyAsBit_cases p m s with ⟨hm, h0, e⟩ | ⟨hm, _, h1, e⟩ | ⟨hout, e⟩
  · simp [e, hm, h0]
  · simp [e, hm, h1]
  · simp [e, hout]

/-! ### The code of a symbol's class -/

/-- The code that role lead shows, by R105's tests in order. -/
theorem code_classifyAsLead (p : Params) (m s : Word) : (classifyAsLead p m s).code =
    if within p m p.tLeadMark = true ∧ within p s p.tLeadSpaceNormal = true then 1#3
    else if within p m p.tLeadMark = true ∧ within p s p.tLeadSpaceRepeat = true then 2#3
    else 0#3 := by
  simp only [classifyAsLead, Bool.and_eq_true, apply_ite PulseClass.code]
  rfl

/-- The code that role bit shows, by R106's tests in order. -/
theorem code_classifyAsBit (p : Params) (m s : Word) : (classifyAsBit p m s).code =
    if ¬ within p m p.tBitMark = true then 0#3
    else if within p s p.tBitSpace0 = true then 3#3
    else if within p s p.tBitSpace1 = true then 4#3
    else 0#3 := by
  simp only [classifyAsBit, Bool.not_eq_true', Bool.not_eq_true, apply_ite PulseClass.code]
  rfl

end Sys2Proof.Machine

namespace Sys2Proof

open Machine

/-- Settles O11: a shared duration bounds the distance of the references, 2250 and 1130 by default. -/
theorem firstMatchWinsWhereWindowsOverlap : Obligations.FirstMatchWinsWhereWindowsOverlap := by
  refine ⟨fun p mark space => ⟨fun hmark hnormal hrepeat => ?_, fun hmark h0 h1 => ?_⟩,
    fun margin space => ⟨fun hnormal hrepeat => ?_, fun h0 h1 => ?_⟩⟩
  · exact ⟨classifyAsLead_eq_leadNormal hmark hnormal, distance_le_of_within hnormal hrepeat⟩
  · exact ⟨classifyAsBit_eq_bit0 hmark h0, distance_le_of_within h1 h0⟩
  · have hdist : 2250 ≤ 2 * margin.toNat := distance_le_of_within hnormal hrepeat
    omega
  · have hdist : 1130 ≤ 2 * margin.toNat := distance_le_of_within h1 h0
    omega

/-- Settles O12: a shared duration would bring the distance of the references down to twice the margin. -/
theorem separatedWindowsAreDisjoint : Obligations.SeparatedWindowsAreDisjoint := by
  refine ⟨separated_iff, fun p space hsep => ?_, separated_nominal_iff⟩
  obtain ⟨hlead, hbit⟩ := (separated_iff p).mp hsep
  constructor
  · rintro ⟨hnormal, hrepeat⟩
    exact absurd (distance_le_of_within hnormal hrepeat) (Nat.not_le.mpr hlead)
  · rintro ⟨h0, h1⟩
    exact absurd (distance_le_of_within h1 h0) (Nat.not_le.mpr hbit)

/-- Settles O8: the distance by its two cases, and the test on it. -/
theorem toleranceTestIsExactDistance : Obligations.ToleranceTestIsExactDistance := fun p o r =>
  ⟨absdiff_eq_natAbs o r, absdiff_le o r, within_iff_natAbs p o r⟩

/-- Settles O9: the distance over the integers has no wrap, and no duration lies below 0. -/
theorem toleranceWindowClipsAtBothEnds : Obligations.ToleranceWindowClipsAtBothEnds := by
  refine ⟨fun p o r => ⟨absdiff_le o r, ?_⟩, fun o => ?_⟩
  · rw [within_iff_natAbs]
    omega
  · have hwindow : within (Params.nominal 600#32) o 560#32 = true ↔ 560 - 600 ≤ o.toNat ∧ o.toNat ≤ 560 + 600 :=
      within_iff (Params.nominal 600#32) o 560#32
    rw [hwindow]
    omega

/-- Settles O10: the window's two ends, and the classes by the windows of each role. -/
theorem boundaryLaw : Obligations.BoundaryLaw := by
  refine ⟨fun p o r => ?_, fun p mark space =>
    ⟨classifyAsLead_eq_unrecognized_iff p mark space, classifyAsBit_eq_unrecognized_iff p mark space⟩⟩
  rw [within_iff, within_eq_false_iff]
  omega

end Sys2Proof
end

section
/-! The port `class_o` (R20, R100, R104): what it shows after each operation. -/

namespace Sys2Proof

open Machine

namespace Machine

theorem State.outputs_classO (s : State) :
    s.outputs.classO = (classify s.params s.cls.mark s.cls.space s.cls.role).code := rfl

/-- `class_o` reads the parameters and the classifier's ports alone. -/
theorem State.outputs_classO_congr {s t : State} (hparams : t.params = s.params) (hcls : t.cls = s.cls) :
    t.outputs.classO = s.outputs.classO := by
  rw [State.outputs_classO, State.outputs_classO, hparams, hcls]

theorem classO_of_exec_classifyLead {mark space : Word} {s t : State}
    (h : exec (.classifyLead mark space) s = .next t) :
    t.outputs.classO = (classifyAsLead s.params mark space).code := by
  cases h
  rfl

theorem classO_of_exec_classifyBit {mark space : Word} {s t : State}
    (h : exec (.classifyBit mark space) s = .next t) :
    t.outputs.classO = (classifyAsBit s.params mark space).code := by
  cases h
  rfl

end Machine

/-- Every IFD word stands for an operation of the decoder. -/
theorem decode_ifd_cases (ctrl : BitVec 3) (count mark space : Word) :
    decode (.ifd ctrl count mark space) = .reset ∨ decode (.ifd ctrl count mark space) = .nop ∨
    (∃ n, decode (.ifd ctrl count mark space) = .start n) ∨
    ∃ m sp, decode (.ifd ctrl count mark space) = .sym m sp := by
  cases hrst : ctrl.getLsbD 2 with
  | true => exact .inl (decode_ifd_of_rst _ _ _ hrst)
  | false =>
    cases hstart : ctrl.getLsbD 1 with
    | true => exact .inr (.inr (.inl ⟨_, decode_ifd_of_start _ _ _ hrst hstart⟩))
    | false =>
      cases hvalid : ctrl.getLsbD 0 with
      | true => exact .inr (.inr (.inr ⟨_, _, decode_ifd_of_sym _ _ _ hrst hstart hvalid⟩))
      | false => exact .inr (.inl (decode_ifd_of_nop _ _ _ hrst hstart hvalid))

/-- Settles O13: each role has three classes, by the cases of its function. -/
theorem classifierShowsNoReservedCode : Obligations.ClassifierShowsNoReservedCode := by
  refine ⟨fun p mark space => ⟨?_, ?_, rfl, rfl⟩, State.outputs_classO⟩
  · rw [classify]
    rcases classifyAsLead_cases p mark space with ⟨_, _, e⟩ | ⟨_, _, _, e⟩ | ⟨_, e⟩ <;> rw [e] <;> decide
  · rw [classify]
    rcases classifyAsBit_cases p mark space with ⟨_, _, e⟩ | ⟨_, _, _, e⟩ | ⟨_, e⟩ <;> rw [e] <;> decide

/-- Settles O14: the evaluation drives the ports alone, and R105's tests are on the distances. -/
theorem classifyLeadShowsItsClass : Obligations.ClassifyLeadShowsItsClass := by
  refine fun mark space s => ⟨decode_ipcWord 0#1 mark space, _, exec_eq_after _ s, rfl, rfl, rfl, rfl, ?_⟩
  rw [classO_of_exec_classifyLead (exec_eq_after _ s), code_classifyAsLead]
  simp only [within_iff_natAbs]

/-- Settles O15: the evaluation drives the ports alone, and R106's tests are on the distances. -/
theorem classifyBitShowsItsClass : Obligations.ClassifyBitShowsItsClass := by
  refine fun mark space s => ⟨decode_ipcWord 1#1 mark space, _, exec_eq_after _ s, rfl, rfl, rfl, rfl, ?_⟩
  rw [classO_of_exec_classifyBit (exec_eq_after _ s), code_classifyAsBit]
  simp only [within_iff_natAbs]

/-- Settles O16: an evaluation overwrites the ports, and a decoder operation leaves them and the parameters alone. -/
theorem classifierOutputDependsOnItsInputsAlone : Obligations.ClassifierOutputDependsOnItsInputsAlone := by
  refine ⟨fun mark space s s' t t' hparams => ⟨fun h h' => ?_, fun h h' => ?_⟩, fun ctrl count mark space s t h => ?_⟩
  · rw [classO_of_exec_classifyLead h, classO_of_exec_classifyLead h', hparams]
  · rw [classO_of_exec_classifyBit h, classO_of_exec_classifyBit h', hparams]
  · obtain ⟨hparams, _, _, hcls⟩ := operationsWriteOnlyTheirOwnBlock _ s t h
    exact State.outputs_classO_congr hparams (hcls (decode_ifd_cases ctrl count mark space))

end Sys2Proof
end

section
/-! The decoder's cycles one at a time (R131 to R143): what each leaves in every register, and the byte pairs of the
payload word. -/

namespace Sys2Proof.Machine

/-! ### One operation -/

theorem exec_start (n : Word) (s : State) : exec (.start n) s = .next (s.setDec (s.dec.start n)) :=
  exec_eq_after (.start n) s

theorem exec_sym (mark space : Word) (s : State) :
    exec (.sym mark space) s = .next (s.setDec (s.dec.sym s.params mark space)) :=
  exec_eq_after (.sym mark space) s

/-- Every register after a `START`, as a function of the count. -/
theorem Decoder.start_eq_ite (d : Decoder) (n : Word) : d.start n =
    if n = 1#32 then ⟨.lead, .kRepeat, 0#6, 0#32, false, .none, .none, 0#6, 0#8, 0#8, 0#32⟩
    else if n = 33#32 then ⟨.lead, .kNormal, 0#6, 0#32, false, .none, .none, 0#6, 0#8, 0#8, 0#32⟩
    else ⟨.idle, .kRepeat, 0#6, 0#32, true, .invalid, .wrongSymbolCount, 0#6, 0#8, 0#8, 0#32⟩ := by
  rcases d.start_cases n with ⟨rfl, e⟩ | ⟨rfl, e⟩ | ⟨h1, h33, e⟩
  · exact e
  · exact e
  · rw [e, if_neg h1, if_neg h33]

/-- A `START` does not read the registers it finds. -/
theorem Decoder.start_congr (d e : Decoder) (n : Word) : d.start n = e.start n := by
  rw [d.start_eq_ite, e.start_eq_ite]

theorem Decoder.sym_of_idle {d : Decoder} (p : Params) (m s : Word) (hst : d.st = .idle) : d.sym p m s = d := by
  simp only [Decoder.sym, hst]

theorem Decoder.sym_of_kRepeat {d : Decoder} (p : Params) (m s : Word) (hst : d.st = .lead)
    (hkind : d.kind = .kRepeat) :
    d.sym p m s = if classify p m s .lead = .leadRepeat then d.finish .repeated .none
      else d.finish .invalid .badLeadMarker := by
  simp only [Decoder.sym, hst, hkind, Decoder.symLeadRepeat]

theorem Decoder.sym_of_kNormal {d : Decoder} (p : Params) (m s : Word) (hst : d.st = .lead)
    (hkind : d.kind = .kNormal) :
    d.sym p m s = if classify p m s .lead = .leadNormal then { d with st := .payload }
      else d.finish .invalid .badLeadMarker := by
  simp only [Decoder.sym, hst, hkind, Decoder.symLeadNormal]

theorem Decoder.sym_of_payload {d : Decoder} (p : Params) (m s : Word) (hst : d.st = .payload) :
    d.sym p m s = if classify p m s .bit = .unrecognized then d.rejectBit
      else d.acceptBit (bitVal (classify p m s .bit)) := by
  simp only [Decoder.sym, hst, Decoder.symPayload]

/-- The bit of a payload symbol in its place, as R141 writes it. -/
theorem placedBit_bitVal (c : PulseClass) (b : Nat) :
    placedBit (bitVal c) b = (if c = .bit1 then 1#32 else 0#32) <<< b := by
  cases c <;> rfl

/-! ### The registers under the invariant -/

theorem Decoder.Inv.holdsNothing_of_busy {d : Decoder} (h : d.Inv) (hbusy : d.st ≠ .idle) : d.HoldsNothing := by
  cases hst : d.st with
  | idle => exact absurd hst hbusy
  | lead =>
    obtain ⟨_, _, hnothing, _⟩ := (inv_iff_of_lead hst).mp h
    exact hnothing
  | payload =>
    obtain ⟨_, _, hnothing, _⟩ := (inv_iff_of_payload hst).mp h
    exact hnothing

/-- A result is held only while `IDLE`, and it is a row of R149's table. -/
theorem Decoder.Inv.of_done {d : Decoder} (h : d.Inv) (hdone : d.done = true) : d.st = .idle ∧ d.HoldsResult := by
  have hidle : d.st = .idle := by
    by_contra hbusy
    obtain ⟨hnot, _⟩ := h.holdsNothing_of_busy hbusy
    rw [hdone] at hnot
    cases hnot
  obtain ⟨_, _, hresult | hnothing⟩ := (inv_iff_of_idle hidle).mp h
  · exact ⟨hidle, hresult⟩
  · obtain ⟨hnot, _⟩ := hnothing
    rw [hdone] at hnot
    cases hnot

theorem Decoder.Inv.acc_of_idx_zero {d : Decoder} (h : d.Inv) (hidx : d.idx = 0#6) : d.acc = 0#32 := by
  obtain ⟨_, hzero, _⟩ := h
  refine BitVec.eq_of_getLsbD_eq fun b _ => ?_
  rw [hzero b (by simp [hidx]), BitVec.getLsbD_zero]

/-! ### Byte pairs -/

theorem byte_xor_eq_ones_iff (x y : Byte) : x ^^^ y = 0xFF#8 ↔ x = ~~~y := by
  have hones : (0xFF#8 : Byte) = y ^^^ ~~~y := by
    rw [← BitVec.xor_allOnes, ← BitVec.xor_assoc, BitVec.xor_self, BitVec.zero_xor]
    rfl
  rw [hones, BitVec.xor_comm x y, BitVec.xor_right_inj]

theorem reverse_not {n : Nat} (x : BitVec n) : (~~~x).reverse = ~~~x.reverse := by
  refine BitVec.eq_of_getLsbD_eq fun b hb => ?_
  rw [BitVec.getLsbD_reverse, BitVec.getMsbD_not, BitVec.getLsbD_not, BitVec.getLsbD_reverse]

theorem reverse_injective {n : Nat} : Function.Injective (BitVec.reverse : BitVec n → BitVec n) :=
  Function.LeftInverse.injective fun _ => BitVec.reverse_reverse_eq

/-- One byte is the other's complement under either bit order. -/
theorem reverse_eq_not_reverse_iff {n : Nat} (x y : BitVec n) : x.reverse = ~~~y.reverse ↔ x = ~~~y := by
  rw [← reverse_not, reverse_injective.eq_iff]

/-- The complement check on four bytes, by its two pairs. -/
theorem complementOk_bytes_iff (a b c d : Byte) : complementOk (a ++ b ++ c ++ d) = true ↔ c = ~~~d ∧ a = ~~~b := by
  rw [complementOk_iff_bytes, addressComplementOf_bytes, addressOf_bytes, commandComplementOf_bytes, commandOf_bytes]

end Sys2Proof.Machine

namespace Sys2Proof

open Machine

/-- Settles O26: the check compares the bytes of each pair, and reversing both of them keeps a complement. -/
theorem complementCheckComparesBytePairs : Obligations.ComplementCheckComparesBytePairs := by
  refine ⟨complementOk_iff_bytes, fun w => ?_, fun a b c d => ⟨?_, ?_⟩⟩
  · rw [byte_xor_eq_ones_iff, byte_xor_eq_ones_iff]
    exact complementOk_iff_bytes w
  · rw [Bool.eq_iff_iff, complementOk_bytes_iff, complementOk_bytes_iff, reverse_eq_not_reverse_iff]
  · rw [Bool.eq_iff_iff, complementOk_bytes_iff, complementOk_bytes_iff, reverse_eq_not_reverse_iff]

/-- Settles O18: an idle cycle is the identity, and so is a symbol cycle while `IDLE`. -/
theorem nopChangesNothing : Obligations.NopChangesNothing := fun _ _ mark space =>
  ⟨rfl, rfl, exec_sym_of_idle mark space⟩

/-- Settles O19: by the three cases of the count. -/
theorem startChecksTheCountFirst : Obligations.StartChecksTheCountFirst := by
  intro ctrl count mark space s hrst hstart
  refine ⟨decode_ifd_of_start count mark space hrst hstart, ?_⟩
  rw [exec_start, Decoder.start_eq_ite]
  rfl

/-- Settles O20: a `START` writes every register and reads none. -/
theorem startLeavesNoTraceOfEarlierWindows : Obligations.StartLeavesNoTraceOfEarlierWindows := fun count s d =>
  ⟨_, exec_start count s, by rw [exec_start, d.start_congr s.dec count]; rfl⟩

/-- Settles O21: the symbol is a repeat lead or not, and `LEAD` holds no result. -/
theorem soleSymbolDecidesARepeatFrame : Obligations.SoleSymbolDecidesARepeatFrame := by
  refine fun mark space s hst hkind => ⟨?_, fun hinv => ?_⟩
  · rw [exec_sym, Decoder.sym_of_kRepeat s.params mark space hst hkind]
    split <;> rfl
  · obtain ⟨_, _, _, hbad, hcmd, haddr, hraw⟩ := hinv.holdsNothing_of_busy (by simp [hst])
    exact ⟨hcmd, haddr, hraw, hbad⟩

/-- Settles O22: the symbol is a normal lead or not, and in `LEAD` no payload bit is in. -/
theorem firstSymbolOpensANormalFrame : Obligations.FirstSymbolOpensANormalFrame := by
  refine fun mark space s hst hkind => ⟨?_, fun hinv => ?_⟩
  · rw [exec_sym, Decoder.sym_of_kNormal s.params mark space hst hkind]
    rfl
  · obtain ⟨_, _, _, hidx⟩ := (Decoder.inv_iff_of_lead hst).mp hinv
    exact ⟨hidx, Decoder.Inv.acc_of_idx_zero hinv hidx⟩

/-- Settles O23: the window ends at its index, which under the invariant is at most 32. -/
theorem unrecognizedPayloadSymbolEndsTheWindow : Obligations.UnrecognizedPayloadSymbolEndsTheWindow := by
  refine fun mark space s hst hclass => ⟨?_, fun hinv => ?_⟩
  · rw [exec_sym, Decoder.sym_of_payload s.params mark space hst, if_pos hclass]
    rfl
  · obtain ⟨_, _, hnothing, _, hidx⟩ := (Decoder.inv_iff_of_payload hst).mp hinv
    obtain ⟨_, _, _, _, _, _, hraw⟩ := hnothing
    exact ⟨idx_add_one_toNat s.dec.idx hidx, by omega, by omega, hraw⟩

/-- Settles O24: the bit is accepted, and with `idx` below 31 it is not the last. -/
theorem recognizedBitIsAccumulated : Obligations.RecognizedBitIsAccumulated := by
  intro mark space s hst hidx hclass
  have hne : s.dec.idx ≠ 31#6 := fun h31 => by simp [h31] at hidx
  rw [exec_sym, Decoder.sym_of_payload s.params mark space hst, if_neg hclass, Decoder.acceptBit, if_neg hne,
    Decoder.addBit, placedBit_bitVal]
  rfl

/-- Settles O25: the bit is accepted as the last, and the check of the whole word has two outcomes. -/
theorem lastBitValidatesAtTheSameEdge : Obligations.LastBitValidatesAtTheSameEdge := by
  rintro mark space s w hst hidx hclass rfl
  refine ⟨?_, fun hinv => ?_⟩
  · rw [exec_sym, Decoder.sym_of_payload s.params mark space hst, if_neg hclass, Decoder.acceptBit, if_pos hidx,
      Decoder.addBit, placedBit_bitVal, hidx, Decoder.validate]
    rfl
  · obtain ⟨_, _, _, _, hcmd, haddr, _⟩ := Decoder.Inv.holdsNothing_of_busy hinv (by simp [hst])
    exact ⟨hcmd, haddr⟩

end Sys2Proof
end

section
/-! The spec's step function on registers and inputs (R153), branch by branch, and what holds once a result is held
(R144, R149). -/

namespace Sys2Proof.Machine

/-! ### The branches of the step function -/

section ReferenceStep
variable (p : Params) (r : Decoder) (valid : Bool) (count mark space : Word)

theorem referenceStep_of_rst (start : Bool) :
    referenceStep p r ⟨true, start, valid, count, mark, space⟩ = Decoder.resetValues := rfl

theorem referenceStep_of_start : referenceStep p r ⟨false, true, valid, count, mark, space⟩ = r.start count := by
  rw [Decoder.start_eq_ite]
  by_cases h1 : count = 1#32
  · subst h1
    rfl
  · by_cases h33 : count = 33#32
    · subst h33
      rfl
    · rw [if_neg h1, if_neg h33]
      exact if_neg (not_or.mpr ⟨h1, h33⟩)

theorem referenceStep_of_sym : referenceStep p r ⟨false, false, true, count, mark, space⟩ = r.sym p mark space := by
  cases hst : r.st with
  | idle =>
    rw [Decoder.sym_of_idle p mark space hst]
    simp only [referenceStep, Bool.false_eq_true, ↓reduceIte, hst, reduceCtorEq, and_false]
  | lead =>
    cases hkind : r.kind with
    | kRepeat =>
      rw [Decoder.sym_of_kRepeat p mark space hst hkind]
      simp only [referenceStep, Bool.false_eq_true, ↓reduceIte, hst, hkind, reduceCtorEq, and_self, true_and,
        false_and]
      rfl
    | kNormal =>
      rw [Decoder.sym_of_kNormal p mark space hst hkind]
      simp only [referenceStep, Bool.false_eq_true, ↓reduceIte, hst, hkind, reduceCtorEq, and_self, true_and,
        false_and]
      rfl
  | payload =>
    rw [Decoder.sym_of_payload p mark space hst, Decoder.acceptBit, Decoder.addBit, placedBit_bitVal]
    simp only [referenceStep, Bool.false_eq_true, ↓reduceIte, hst, reduceCtorEq, and_false, and_self]
    rfl

theorem referenceStep_of_nop : referenceStep p r ⟨false, false, false, count, mark, space⟩ = r := by
  simp [referenceStep]

end ReferenceStep

/-- The operation an IFD word stands for does to the registers what the step function does on its inputs. -/
theorem after_ifd (s : State) (ctrl : BitVec 3) (count mark space : Word) :
    after (decode (.ifd ctrl count mark space)) s =
      s.setDec (referenceStep s.params s.dec (.ofPorts ctrl count mark space)) := by
  rw [CycleInputs.ofPorts]
  cases hrst : ctrl.getLsbD 2 with
  | true => rw [decode_ifd_of_rst _ _ _ hrst, referenceStep_of_rst, after]
  | false =>
    cases hstart : ctrl.getLsbD 1 with
    | true => rw [decode_ifd_of_start _ _ _ hrst hstart, referenceStep_of_start, after]
    | false =>
      cases hvalid : ctrl.getLsbD 0 with
      | true => rw [decode_ifd_of_sym _ _ _ hrst hstart hvalid, referenceStep_of_sym, after]
      | false => rw [decode_ifd_of_nop _ _ _ hrst hstart hvalid, referenceStep_of_nop, after, State.setDec_self]

/-! ### A held result -/

/-- The rows of R149's table, with the fields each sets. -/
theorem Decoder.HoldsResult.rows {d : Decoder} (h : d.HoldsResult) :
    (d.result = .command ∧ d.reason = .none ∧ d.badIndex = 0#6 ∧ d.cmd = d.raw.extractLsb 23 16 ∧
      d.addr = d.raw.extractLsb 7 0 ∧ d.raw = d.acc) ∨
    (d.result = .repeated ∧ d.reason = .none ∧ d.badIndex = 0#6 ∧ d.cmd = 0#8 ∧ d.addr = 0#8 ∧ d.raw = 0#32) ∨
    (d.result = .invalid ∧ (d.reason = .wrongSymbolCount ∨ d.reason = .badLeadMarker) ∧
      d.badIndex = 0#6 ∧ d.cmd = 0#8 ∧ d.addr = 0#8 ∧ d.raw = 0#32) ∨
    (d.result = .invalid ∧ d.reason = .badPayloadBit ∧ d.badIndex.toNat = d.idx.toNat + 1 ∧
      d.badIndex.toNat ≤ 32 ∧ d.cmd = 0#8 ∧ d.addr = 0#8 ∧ d.raw = 0#32) ∨
    (d.result = .invalid ∧ d.reason = .complementMismatch ∧ d.badIndex = 0#6 ∧ d.cmd = 0#8 ∧ d.addr = 0#8 ∧
      d.raw = d.acc) := by
  obtain ⟨_, h⟩ := h
  split at h
  case h_1 hres hrsn =>
    obtain ⟨_, hbad, hcmd, haddr, hraw, _⟩ := h
    exact .inl ⟨hres, hrsn, hbad, hcmd, haddr, hraw⟩
  case h_2 hres hrsn => exact .inr (.inl ⟨hres, hrsn, h⟩)
  case h_3 hres hrsn => exact .inr (.inr (.inl ⟨hres, .inl hrsn, h⟩))
  case h_4 hres hrsn => exact .inr (.inr (.inl ⟨hres, .inr hrsn, h⟩))
  case h_5 hres hrsn => exact .inr (.inr (.inr (.inl ⟨hres, hrsn, h⟩)))
  case h_6 hres hrsn =>
    obtain ⟨_, hbad, hcmd, haddr, hraw, _⟩ := h
    exact .inr (.inr (.inr (.inr ⟨hres, hrsn, hbad, hcmd, haddr, hraw⟩)))
  case h_7 => exact h.elim

end Sys2Proof.Machine

namespace Sys2Proof

open Machine

/-- Settles O31: by the operation `ctrl` selects, in the order in which R153 tests its inputs. -/
theorem stepAgreesWithTheStepFunction : Obligations.StepAgreesWithTheStepFunction := by
  intro s ctrl count mark space rest hpending
  rw [step_cons hpending, exec_eq_after, after_ifd]
  rfl

/-- Settles O40: the step keeps the invariant, under which a held result is a row of the table. -/
theorem terminalsLeaveTheResultTable : Obligations.TerminalsLeaveTheResultTable := by
  intro s t hinv hstep hdone
  obtain ⟨_, hresult⟩ := Decoder.Inv.of_done (everyStepKeepsTheInvariant s t hinv hstep) hdone
  exact hresult.rows

/-- Settles O44: a held result means `IDLE`, where no presented symbol is taken. -/
theorem idleTakesNoSymbolUntilTheNextStart : Obligations.IdleTakesNoSymbolUntilTheNextStart := by
  intro s ws hinv hdone hquiet
  obtain ⟨hidle, _⟩ := Decoder.Inv.of_done hinv hdone
  refine ⟨hidle, by simp [State.outputs, Decoder.symReadyO, hidle], _, runWords_eq ws s, ?_⟩
  rw [State.setPending_dec, afterWords_quiet_dec ws s hquiet, Decoder.feed_idle _ _ _ hidle]

/-- Settles O48: a `START` leaves the same registers in both states, and the words between feed them the same symbols. -/
theorem decodingTwiceGivesTheSameResult : Obligations.DecodingTwiceGivesTheSameResult := by
  intro s s' n ws ws' hparams hquiet hquiet' hsame
  have hrun := runWords_eq (encode (.start n) :: ws) s
  have hrun' := runWords_eq (encode (.start n) :: ws') s'
  refine ⟨_, _, hrun, hrun', ?_⟩
  rw [runWords_start_dec rfl hquiet hrun, runWords_start_dec rfl hquiet' hrun', hparams, hsame,
    s.dec.start_congr s'.dec n]

end Sys2Proof
end

section
/-! The window the spec's reference function reads (R147, R150), followed through the decoder's registers: from any
registers in a window, how far the function still takes symbols and what it decodes. A presented symbol changes neither,
so the decoder agrees with the function (R151). -/

namespace Sys2Proof.Machine

/-! ### How many payload symbols are taken -/

section PayloadTaken
variable {p : Params} {x : Nat → PulseSymbol}

theorem payloadTaken_succ (p : Params) (x : Nat → PulseSymbol) (fuel j : Nat) : payloadTaken p x (fuel + 1) j =
    if classAt p x j .bit = .unrecognized then j + 1 else payloadTaken p x fuel (j + 1) := rfl

theorem le_payloadTaken (p : Params) (x : Nat → PulseSymbol) (fuel j : Nat) : j ≤ payloadTaken p x fuel j := by
  induction fuel generalizing j with
  | zero => exact le_rfl
  | succ fuel ih =>
    have := ih (j + 1)
    rw [payloadTaken_succ]
    split <;> omega

theorem payloadTaken_le (p : Params) (x : Nat → PulseSymbol) (fuel j : Nat) :
    payloadTaken p x fuel j ≤ j + fuel := by
  induction fuel generalizing j with
  | zero => exact le_rfl
  | succ fuel ih =>
    have := ih (j + 1)
    rw [payloadTaken_succ]
    split <;> omega

/-- With a symbol left, at least one is taken. -/
theorem lt_payloadTaken_succ (p : Params) (x : Nat → PulseSymbol) (fuel j : Nat) :
    j < payloadTaken p x (fuel + 1) j := by
  have := le_payloadTaken p x fuel (j + 1)
  rw [payloadTaken_succ]
  split <;> omega

/-- The first unrecognized payload symbol is the last one taken. -/
theorem payloadTaken_of_first_unrecognized {fuel i j : Nat} (hij : i ≤ j) (hj : j < i + fuel)
    (hbad : classAt p x j .bit = .unrecognized)
    (hgood : ∀ k, i ≤ k → k < j → classAt p x k .bit ≠ .unrecognized) : payloadTaken p x fuel i = j + 1 := by
  induction fuel generalizing i with
  | zero => omega
  | succ fuel ih =>
    rw [payloadTaken_succ]
    rcases hij.eq_or_lt with rfl | hlt
    · exact if_pos hbad
    · rw [if_neg (hgood i le_rfl hlt)]
      exact ih hlt (by omega) fun k hk => hgood k (by omega)

/-- Where every payload symbol is recognized all of them are taken. -/
theorem payloadTaken_of_recognized {fuel i : Nat}
    (hgood : ∀ k, i ≤ k → k < i + fuel → classAt p x k .bit ≠ .unrecognized) :
    payloadTaken p x fuel i = i + fuel := by
  induction fuel generalizing i with
  | zero => rfl
  | succ fuel ih =>
    rw [payloadTaken_succ, if_neg (hgood i le_rfl (by omega)), ih fun k hk hlt => hgood k (by omega) (by omega)]
    omega

end PayloadTaken

/-! ### How many symbols of a window are taken -/

section SymbolsTaken
variable (p : Params) (x : Nat → PulseSymbol)

theorem symbolsTaken_of_other_count {n : Word} (h1 : n ≠ 1#32) (h33 : n ≠ 33#32) : symbolsTaken p n x = 0 := by
  rw [symbolsTaken, if_neg h1, if_neg h33]

theorem symbolsTaken_of_one : symbolsTaken p 1#32 x = 1 := rfl

theorem symbolsTaken_of_bad_lead (hlead : classAt p x 0 .lead ≠ .leadNormal) : symbolsTaken p 33#32 x = 1 :=
  if_neg hlead

theorem symbolsTaken_of_normal_lead (hlead : classAt p x 0 .lead = .leadNormal) :
    symbolsTaken p 33#32 x = payloadTaken p x 32 1 :=
  if_pos hlead

theorem symbolsTaken_le (n : Word) : symbolsTaken p n x ≤ min n.toNat 33 := by
  by_cases h1 : n = 1#32
  · subst h1
    rw [symbolsTaken_of_one]
    decide
  · by_cases h33 : n = 33#32
    · subst h33
      change _ ≤ 33
      by_cases hlead : classAt p x 0 .lead = .leadNormal
      · rw [symbolsTaken_of_normal_lead p x hlead]
        exact payloadTaken_le p x 32 1
      · rw [symbolsTaken_of_bad_lead p x hlead]
        decide
    · rw [symbolsTaken_of_other_count p x h1 h33]
      exact Nat.zero_le _

end SymbolsTaken

/-! ### The rest of a window -/

/-- The window index after the last symbol taken by a decoder that stands before symbol `k` of the window `x`. -/
def Decoder.takenUpTo (p : Params) (x : Nat → PulseSymbol) (k : Nat) (d : Decoder) : Nat :=
  match d.st, d.kind with
  | .idle, _ => k
  | .lead, .kRepeat => k + 1
  | .lead, .kNormal => if classAt p x k .lead = .leadNormal then payloadTaken p x 32 (k + 1) else k + 1
  | .payload, _ => payloadTaken p x (32 - d.idx.toNat) k

/-- What the reference function decodes from symbol `k` of the window `x` on, with the registers as they are. -/
def Decoder.outcome (p : Params) (x : Nat → PulseSymbol) (k : Nat) (d : Decoder) : Decoded :=
  match d.st, d.kind with
  | .idle, _ => d.decoded
  | .lead, .kRepeat =>
    if classAt p x k .lead = .leadRepeat then ⟨.repeated, .none, 0#6, 0#8, 0#8, 0#32⟩
    else Decoded.invalid .badLeadMarker
  | .lead, .kNormal =>
    if classAt p x k .lead = .leadNormal then decodePayload p x 32 (k + 1) 0#32
    else Decoded.invalid .badLeadMarker
  | .payload, _ => decodePayload p x (32 - d.idx.toNat) k d.acc

section Rest
variable {p : Params} {x : Nat → PulseSymbol} {k : Nat} {d : Decoder}

theorem Decoder.takenUpTo_of_idle (hst : d.st = .idle) : d.takenUpTo p x k = k := by
  simp only [takenUpTo, hst]

theorem Decoder.takenUpTo_of_kRepeat (hst : d.st = .lead) (hkind : d.kind = .kRepeat) :
    d.takenUpTo p x k = k + 1 := by
  simp only [takenUpTo, hst, hkind]

theorem Decoder.takenUpTo_of_kNormal (hst : d.st = .lead) (hkind : d.kind = .kNormal) : d.takenUpTo p x k =
    if classAt p x k .lead = .leadNormal then payloadTaken p x 32 (k + 1) else k + 1 := by
  simp only [takenUpTo, hst, hkind]

theorem Decoder.takenUpTo_of_payload (hst : d.st = .payload) :
    d.takenUpTo p x k = payloadTaken p x (32 - d.idx.toNat) k := by
  simp only [takenUpTo, hst]

theorem Decoder.outcome_of_idle (hst : d.st = .idle) : d.outcome p x k = d.decoded := by
  simp only [outcome, hst]

theorem Decoder.outcome_of_kRepeat (hst : d.st = .lead) (hkind : d.kind = .kRepeat) : d.outcome p x k =
    if classAt p x k .lead = .leadRepeat then ⟨.repeated, .none, 0#6, 0#8, 0#8, 0#32⟩
    else Decoded.invalid .badLeadMarker := by
  simp only [outcome, hst, hkind]

theorem Decoder.outcome_of_kNormal (hst : d.st = .lead) (hkind : d.kind = .kNormal) : d.outcome p x k =
    if classAt p x k .lead = .leadNormal then decodePayload p x 32 (k + 1) 0#32
    else Decoded.invalid .badLeadMarker := by
  simp only [outcome, hst, hkind]

theorem Decoder.outcome_of_payload (hst : d.st = .payload) :
    d.outcome p x k = decodePayload p x (32 - d.idx.toNat) k d.acc := by
  simp only [outcome, hst]

end Rest

/-- Before the first symbol after a `START` the whole window is left. -/
theorem Decoder.start_takenUpTo (d : Decoder) (p : Params) (n : Word) (x : Nat → PulseSymbol) :
    (d.start n).takenUpTo p x 0 = symbolsTaken p n x := by
  rcases d.start_cases n with ⟨rfl, e⟩ | ⟨rfl, e⟩ | ⟨h1, h33, e⟩ <;> rw [e]
  · rfl
  · rfl
  · exact (symbolsTaken_of_other_count p x h1 h33).symm

theorem Decoder.start_outcome (d : Decoder) (p : Params) (n : Word) (x : Nat → PulseSymbol) :
    (d.start n).outcome p x 0 = decodeWindow p n x := by
  rcases d.start_cases n with ⟨rfl, e⟩ | ⟨rfl, e⟩ | ⟨h1, h33, e⟩ <;> rw [e]
  · rfl
  · exact (ite_not _ _ _).symm
  · exact (if_pos ⟨h1, h33⟩).symm

/-! ### The registers within a window -/

/-- What holds of the registers `k` symbols after a `START`: the invariant, the count, and a result once the window has
ended. -/
structure Decoder.InWindow (d : Decoder) (k : Nat) : Prop where
  inv : d.Inv
  counts : d.CountsSymbols k
  done_of_idle : d.st = .idle → d.done = true

theorem Decoder.start_inWindow (d : Decoder) (n : Word) : (d.start n).InWindow 0 where
  inv := d.start_inv n
  counts := d.start_countsSymbols n
  done_of_idle := by rcases d.start_cases n with ⟨_, e⟩ | ⟨_, e⟩ | ⟨_, _, e⟩ <;> simp [e]

theorem Decoder.acceptBit_done_of_idle {d : Decoder} (bit : Bool) (hst : d.st = .payload)
    (hidle : (d.acceptBit bit).st = .idle) : (d.acceptBit bit).done = true := by
  rcases d.acceptBit_cases bit with ⟨_, e⟩ | ⟨_, e⟩
  · simp [e, hst] at hidle
  · rw [e]
    rcases (d.addBit bit).validate_cases with ⟨_, e⟩ | ⟨_, e⟩ <;> rw [e] <;> rfl

section InWindow
variable {d : Decoder} {k : Nat}

theorem Decoder.InWindow.sym (h : d.InWindow k) (p : Params) (m s : Word) : (d.sym p m s).InWindow (k + 1) where
  inv := sym_inv p m s h.inv
  counts := sym_countsSymbols p m s h.counts
  done_of_idle := by
    rcases d.sym_cases p m s with
      ⟨_, e⟩ | ⟨_, _, _, e⟩ | ⟨_, _, _, e⟩ | ⟨_, _, _, e⟩ | ⟨_, _, e⟩ | ⟨hst, _, e⟩ <;> rw [e]
    · exact h.done_of_idle
    · simp
    · simp
    · simp
    · simp
    · exact acceptBit_done_of_idle _ hst

theorem Decoder.InWindow.feed (p : Params) (l : List PulseSymbol) (h : d.InWindow k) :
    (Decoder.feed p l d).InWindow (k + l.length) := by
  induction l generalizing d k with
  | nil => exact h
  | cons y l ih =>
    rw [feed_cons, List.length_cons, Nat.add_comm l.length 1, ← Nat.add_assoc]
    exact ih (h.sym p y.mark y.space)

/-- While a window is decoded there is a next symbol to take. -/
theorem Decoder.InWindow.lt_takenUpTo (h : d.InWindow k) (hbusy : d.st ≠ .idle) (p : Params) (x : Nat → PulseSymbol) :
    k < d.takenUpTo p x k := by
  cases hst : d.st with
  | idle => exact absurd hst hbusy
  | lead =>
    cases hkind : d.kind with
    | kRepeat => rw [takenUpTo_of_kRepeat hst hkind]; omega
    | kNormal =>
      have := le_payloadTaken p x 32 (k + 1)
      rw [takenUpTo_of_kNormal hst hkind]
      split <;> omega
  | payload =>
    obtain ⟨_, hidx⟩ := h.counts.ofPayload hst
    rw [takenUpTo_of_payload hst, show 32 - d.idx.toNat = 31 - d.idx.toNat + 1 by omega]
    exact lt_payloadTaken_succ p x _ k

theorem Decoder.InWindow.takenUpTo_le_iff (h : d.InWindow k) (p : Params) (x : Nat → PulseSymbol) :
    d.takenUpTo p x k ≤ k ↔ d.st = .idle := by
  constructor
  · intro hle
    by_contra hbusy
    exact absurd (h.lt_takenUpTo hbusy p x) (Nat.not_lt.mpr hle)
  · exact fun hidle => (takenUpTo_of_idle hidle).le

theorem Decoder.InWindow.le_takenUpTo (h : d.InWindow k) (p : Params) (x : Nat → PulseSymbol) :
    k ≤ d.takenUpTo p x k := by
  by_cases hidle : d.st = .idle
  · exact (takenUpTo_of_idle hidle).ge
  · exact (h.lt_takenUpTo hidle p x).le

end InWindow

/-! ### The outcomes of a window -/

theorem Decoder.HoldsNothing.finish_decoded {d : Decoder} (h : d.HoldsNothing) (res : Result) (rsn : Reason) :
    (d.finish res rsn).decoded = ⟨res, rsn, 0#6, 0#8, 0#8, 0#32⟩ := by
  obtain ⟨_, _, _, hbad, hcmd, haddr, hraw⟩ := h
  simp [Decoder.decoded, hbad, hcmd, haddr, hraw]

theorem Decoder.HoldsNothing.rejectBit_decoded {d : Decoder} (h : d.HoldsNothing) :
    d.rejectBit.decoded = ⟨.invalid, .badPayloadBit, d.idx + 1#6, 0#8, 0#8, 0#32⟩ := by
  obtain ⟨_, _, _, _, hcmd, haddr, hraw⟩ := h
  simp [Decoder.decoded, hcmd, haddr, hraw]

theorem Decoder.HoldsNothing.validate_decoded {d : Decoder} (h : d.HoldsNothing) :
    d.validate.decoded = decodedWord d.acc := by
  obtain ⟨_, _, _, hbad, hcmd, haddr, _⟩ := h
  rcases d.validate_cases with ⟨hok, e⟩ | ⟨hok, e⟩ <;> rw [e] <;>
    simp [Decoder.decoded, decodedWord, hok, hbad, hcmd, haddr]

theorem decodePayload_succ (p : Params) (x : Nat → PulseSymbol) (fuel j : Nat) (w : Word) :
    decodePayload p x (fuel + 1) j w =
      if classAt p x j .bit = .unrecognized then ⟨.invalid, .badPayloadBit, BitVec.ofNat 6 j, 0#8, 0#8, 0#32⟩
      else decodePayload p x fuel (j + 1) (w ||| placedBit (bitVal (classAt p x j .bit)) (j - 1)) := by
  rw [decodePayload]
  cases classAt p x j .bit with
  | unrecognized => rfl
  | bit1 => rfl
  | bit0 => simp [placedBit_bitVal]
  | leadNormal => simp [placedBit_bitVal]
  | leadRepeat => simp [placedBit_bitVal]

/-! ### One symbol of a window -/

/-- Symbol `k` of the window, presented, changes neither how far symbols are taken nor the outcome. -/
def Decoder.SymKeepsRest (p : Params) (x : Nat → PulseSymbol) (k : Nat) (d : Decoder) : Prop :=
  (d.sym p (x k).mark (x k).space).takenUpTo p x (k + 1) = d.takenUpTo p x k ∧
  (d.sym p (x k).mark (x k).space).outcome p x (k + 1) = d.outcome p x k

section Sym
variable {d : Decoder} {k : Nat} (p : Params) (x : Nat → PulseSymbol)

theorem Decoder.InWindow.symKeepsRest_of_kRepeat (h : d.InWindow k) (hst : d.st = .lead) (hkind : d.kind = .kRepeat) :
    d.SymKeepsRest p x k := by
  have hnothing := h.inv.holdsNothing_of_busy (by simp [hst])
  rw [SymKeepsRest, takenUpTo_of_kRepeat hst hkind, outcome_of_kRepeat hst hkind, sym_of_kRepeat p _ _ hst hkind,
    classAt]
  split
  · exact ⟨rfl, hnothing.finish_decoded _ _⟩
  · exact ⟨rfl, hnothing.finish_decoded _ _⟩

theorem Decoder.InWindow.symKeepsRest_of_kNormal (h : d.InWindow k) (hst : d.st = .lead) (hkind : d.kind = .kNormal) :
    d.SymKeepsRest p x k := by
  have hnothing := h.inv.holdsNothing_of_busy (by simp [hst])
  obtain ⟨_, hidx⟩ := h.counts.ofLead hst
  have hacc := h.inv.acc_of_idx_zero hidx
  rw [SymKeepsRest, takenUpTo_of_kNormal hst hkind, outcome_of_kNormal hst hkind, sym_of_kNormal p _ _ hst hkind,
    classAt]
  split
  · rw [takenUpTo_of_payload rfl, outcome_of_payload rfl]
    simp [hidx, hacc]
  · exact ⟨rfl, hnothing.finish_decoded _ _⟩

/-- After an accepted bit the rest of the payload is left, and after the 32nd the verdict on the word. -/
theorem Decoder.InWindow.acceptBit_rest (h : d.InWindow k) (hst : d.st = .payload) (bit : Bool) :
    (d.acceptBit bit).takenUpTo p x (k + 1) = payloadTaken p x (31 - d.idx.toNat) (k + 1) ∧
    (d.acceptBit bit).outcome p x (k + 1) =
      decodePayload p x (31 - d.idx.toNat) (k + 1) (d.acc ||| placedBit bit d.idx.toNat) := by
  obtain ⟨_, hidx⟩ := h.counts.ofPayload hst
  rcases d.acceptBit_cases bit with ⟨_, e⟩ | ⟨hlast, e⟩
  · have hsucc := idx_add_one_toNat d.idx hidx
    have hleft : 32 - (d.idx + 1#6).toNat = 31 - d.idx.toNat := by omega
    have hst' : (d.addBit bit).st = .payload := hst
    rw [e, takenUpTo_of_payload hst', outcome_of_payload hst', addBit_idx, hleft]
    exact ⟨rfl, rfl⟩
  · have hnothing : (d.addBit bit).HoldsNothing := h.inv.holdsNothing_of_busy (by simp [hst])
    have hleft : 31 - d.idx.toNat = 0 := by rw [hlast]; rfl
    rw [e, takenUpTo_of_idle (validate_st _), outcome_of_idle (validate_st _), hleft]
    exact ⟨rfl, hnothing.validate_decoded⟩

theorem Decoder.InWindow.symKeepsRest_of_payload (h : d.InWindow k) (hst : d.st = .payload) :
    d.SymKeepsRest p x k := by
  have hnothing := h.inv.holdsNothing_of_busy (by simp [hst])
  obtain ⟨hk, hidx⟩ := h.counts.ofPayload hst
  have hpos : k - 1 = d.idx.toNat := by omega
  rw [SymKeepsRest, takenUpTo_of_payload hst, outcome_of_payload hst,
    show 32 - d.idx.toNat = 31 - d.idx.toNat + 1 by omega, payloadTaken_succ, decodePayload_succ, hpos]
  by_cases hclass : classAt p x k .bit = .unrecognized
  · have hindex : BitVec.ofNat 6 k = d.idx + 1#6 := by
      rw [hk, BitVec.ofNat_add, BitVec.ofNat_toNat, BitVec.setWidth_eq]
    rw [(sym_of_payload p _ _ hst).trans (if_pos hclass), if_pos hclass, if_pos hclass, hindex]
    exact ⟨rfl, hnothing.rejectBit_decoded⟩
  · rw [(sym_of_payload p _ _ hst).trans (if_neg hclass), if_neg hclass, if_neg hclass]
    exact h.acceptBit_rest p x hst _

/-- While a window is decoded, its next symbol leaves the rest of it as it was, in each control state. -/
theorem Decoder.InWindow.symKeepsRest (h : d.InWindow k) (hbusy : d.st ≠ .idle) :
    d.SymKeepsRest p x k := by
  cases hst : d.st with
  | idle => exact absurd hst hbusy
  | lead =>
    cases hkind : d.kind with
    | kRepeat => exact h.symKeepsRest_of_kRepeat p x hst hkind
    | kNormal => exact h.symKeepsRest_of_kNormal p x hst hkind
  | payload => exact h.symKeepsRest_of_payload p x hst

end Sym

/-! ### All symbols presented -/

/-- The symbols of a list stand in the window `x` from index `k` on. -/
def StandsAt (x : Nat → PulseSymbol) (k : Nat) (l : List PulseSymbol) : Prop := ∀ j, windowOf l j = x (k + j)

theorem standsAt_windowOf (l : List PulseSymbol) : StandsAt (windowOf l) 0 l := fun j => by rw [Nat.zero_add]

section StandsAt
variable {x : Nat → PulseSymbol} {k : Nat} {y : PulseSymbol} {l : List PulseSymbol}

theorem StandsAt.head (h : StandsAt x k (y :: l)) : y = x k := h 0

theorem StandsAt.tail (h : StandsAt x k (y :: l)) : StandsAt x (k + 1) l := fun j => by
  rw [Nat.add_assoc, Nat.add_comm 1 j]
  exact h (j + 1)

/-- A window has ended when as many symbols were presented as are taken of it, and its outcome is kept throughout. -/
theorem Decoder.InWindow.feed_rest {d : Decoder} {p : Params} (h : d.InWindow k) (hl : StandsAt x k l) :
    ((Decoder.feed p l d).st = .idle ↔ d.takenUpTo p x k ≤ k + l.length) ∧
    (Decoder.feed p l d).outcome p x (k + l.length) = d.outcome p x k := by
  induction l generalizing d k with
  | nil => exact ⟨(h.takenUpTo_le_iff p x).symm, rfl⟩
  | cons y l ih =>
    by_cases hidle : d.st = .idle
    · rw [feed_idle p _ d hidle, takenUpTo_of_idle hidle, outcome_of_idle hidle, outcome_of_idle hidle]
      exact ⟨iff_of_true hidle (Nat.le_add_right k _), rfl⟩
    · obtain ⟨htaken, houtcome⟩ := h.symKeepsRest p x hidle
      obtain ⟨hended, hkept⟩ := ih (h.sym p (x k).mark (x k).space) hl.tail
      rw [htaken] at hended
      rw [feed_cons, hl.head, List.length_cons, Nat.add_comm l.length 1, ← Nat.add_assoc]
      exact ⟨hended, hkept.trans houtcome⟩

end StandsAt

/-! ### Transfers -/

/-- A quiet word presents no symbol and is no transfer, or presents one and is a transfer while the decoder is busy. -/
theorem quiet_cases {w : PortWord} (d : Decoder) (h : isQuiet w = true) :
    (presentedSymbols [w] = [] ∧ d.transfer w = false) ∨
    (∃ y, presentedSymbols [w] = [y] ∧ (d.transfer w = true ↔ d.st ≠ .idle)) := by
  cases w with
  | ipc w => exact .inl ⟨rfl, rfl⟩
  | ifd ctrl count mark space =>
    simp only [isQuiet, Bool.and_eq_true, Bool.not_eq_true'] at h
    obtain ⟨hrst, hstart⟩ := h
    cases hvalid : ctrl.getLsbD 0 with
    | false => exact .inl ⟨by rw [presentedSymbols, hvalid]; rfl, d.transfer_ifd_of_not_valid hvalid count mark space⟩
    | true =>
      refine .inr ⟨⟨mark, space⟩, by rw [presentedSymbols, hvalid]; rfl, ?_⟩
      rw [Decoder.transfer_ifd_iff]
      exact ⟨fun ⟨_, hbusy, _, _⟩ => hbusy, fun hbusy => ⟨hvalid, hbusy, hstart, hrst⟩⟩

theorem transfersIn_cons (w : PortWord) (ws : List PortWord) (s : State) : transfersIn (w :: ws) s =
    (if s.dec.transfer w then 1 else 0) + transfersIn ws (after (decode w) s) := by
  rw [transfersIn, exec_eq_after]

/-- The transfers of quiet words take the symbols presented, as far as the window takes any. -/
theorem Decoder.InWindow.transfersIn_eq {ws : List PortWord} {s : State} {x : Nat → PulseSymbol} {k : Nat}
    (h : s.dec.InWindow k) (hquiet : ∀ w ∈ ws, isQuiet w = true) (hl : StandsAt x k (presentedSymbols ws)) :
    k + transfersIn ws s = min (k + (presentedSymbols ws).length) (s.dec.takenUpTo s.params x k) := by
  induction ws generalizing s k with
  | nil => exact (min_eq_left (h.le_takenUpTo s.params x)).symm
  | cons w ws ih =>
    have hw : isQuiet w = true := hquiet w List.mem_cons_self
    have hws : ∀ v ∈ ws, isQuiet v = true := fun v hv => hquiet v (List.mem_cons_of_mem _ hv)
    have hdec := after_quiet_dec w s hw
    rw [presentedSymbols_cons] at hl ⊢
    rw [transfersIn_cons]
    rcases quiet_cases s.dec hw with ⟨hnone, hno⟩ | ⟨y, hone, htransfer⟩
    · rw [hnone] at hl hdec ⊢
      have hrest := ih (s := after (decode w) s) (by rw [hdec]; exact h) hws hl
      rw [hdec, after_params] at hrest
      simpa [hno] using hrest
    · rw [hone] at hl hdec ⊢
      obtain rfl := hl.head
      have hrest := ih (s := after (decode w) s) (by rw [hdec]; exact h.sym _ _ _) hws hl.tail
      rw [hdec, after_params, Decoder.feed_cons, Decoder.feed_nil] at hrest
      rw [List.singleton_append, List.length_cons]
      by_cases hidle : s.dec.st = .idle
      · rw [Decoder.sym_of_idle _ _ _ hidle, Decoder.takenUpTo_of_idle hidle] at hrest
        rw [if_neg fun htrue => htransfer.mp htrue hidle, Decoder.takenUpTo_of_idle hidle]
        omega
      · obtain ⟨htaken, _⟩ := h.symKeepsRest s.params x hidle
        rw [htaken] at hrest
        rw [if_pos (htransfer.mpr hidle)]
        omega

end Sys2Proof.Machine

namespace Sys2Proof

open Machine

/-- Settles O46: the started decoder has the whole window left, and every presented symbol keeps its outcome. -/
theorem decoderAgreesWithTheReferenceFunction : Obligations.DecoderAgreesWithTheReferenceFunction := by
  intro s n w0 ws hstart hquiet
  have hrun := runWords_eq (w0 :: ws) s
  have hdec := runWords_start_dec hstart hquiet hrun
  have hl := standsAt_windowOf (presentedSymbols ws)
  have hwindow := (s.dec.start_inWindow n).feed s.params (presentedSymbols ws)
  obtain ⟨hended, houtcome⟩ := (s.dec.start_inWindow n).feed_rest (p := s.params) hl
  rw [Decoder.start_takenUpTo, Nat.zero_add] at hended
  rw [Decoder.start_outcome] at houtcome
  rw [← hdec] at hwindow hended houtcome
  refine ⟨_, hrun, fun hall => ?_, fun hfew => ?_⟩
  · have hidle := hended.mpr hall
    rw [Decoder.outcome_of_idle hidle] at houtcome
    exact ⟨hwindow.done_of_idle hidle, hidle, houtcome⟩
  · have hbusy := mt hended.mp (Nat.not_le.mpr hfew)
    obtain ⟨hdone, _⟩ := hwindow.inv.holdsNothing_of_busy hbusy
    exact ⟨hdone, (State.outputs_busyO_eq_one_iff _).mpr hbusy⟩

/-- Settles O47: the rows by the count, the lead and the first unrecognized payload symbol; and each transfer takes the
next symbol of the window. -/
theorem symbolsTakenFollowTheTable : Obligations.SymbolsTakenFollowTheTable := by
  refine ⟨fun p n x => ⟨symbolsTaken_le p x n, symbolsTaken_of_other_count p x, ?_, ?_, ?_, ?_⟩,
    fun s t n ws hexec hquiet => ?_⟩
  · rintro rfl
    exact symbolsTaken_of_one p x
  · rintro rfl
    exact symbolsTaken_of_bad_lead p x
  · rintro j rfl hlead hj hj32 hbad hgood
    rw [symbolsTaken_of_normal_lead p x hlead]
    exact payloadTaken_of_first_unrecognized hj (by omega) hbad hgood
  · rintro rfl hlead hgood
    rw [symbolsTaken_of_normal_lead p x hlead]
    exact payloadTaken_of_recognized fun k hk hlt => hgood k hk (by omega)
  · rw [exec_start] at hexec
    cases hexec
    have h := Decoder.InWindow.transfersIn_eq (s := s.setDec (s.dec.start n)) (s.dec.start_inWindow n) hquiet
      (standsAt_windowOf (presentedSymbols ws))
    rwa [Nat.zero_add, Nat.zero_add, State.setDec_dec, State.setDec_params, Decoder.start_takenUpTo] at h

end Sys2Proof
end

section
/-! What a window ends with (R185, R186): the outcomes a result row allows, and which cause of the reference function's
order the decoder reports. -/

namespace Sys2Proof.Machine

/-! ### The outcomes the invariant allows -/

/-- In every control state the result registers hold a row of R149's table or nothing. -/
theorem Decoder.Inv.holdsResult_or_holdsNothing {d : Decoder} (h : d.Inv) : d.HoldsResult ∨ d.HoldsNothing := by
  by_cases hidle : d.st = .idle
  · obtain ⟨_, _, hheld⟩ := (inv_iff_of_idle hidle).mp h
    exact hheld
  · exact .inr (h.holdsNothing_of_busy hidle)

/-- A held result is a command with the bytes of a word that passes the check, or delivers no byte (R186). -/
theorem Decoder.HoldsResult.command_or_no_bytes {d : Decoder} (h : d.HoldsResult) :
    (d.result = .command ∧ complementOk d.raw = true ∧ d.cmd = commandOf d.raw ∧ d.addr = addressOf d.raw) ∨
    ((d.result = .repeated ∨ d.result = .invalid) ∧ d.cmd = 0#8 ∧ d.addr = 0#8) := by
  obtain ⟨_, h⟩ := h
  split at h
  case h_1 hres _ =>
    obtain ⟨hok, _, hcmd, haddr, _⟩ := h
    exact .inl ⟨hres, hok, hcmd, haddr⟩
  case h_2 hres _ =>
    obtain ⟨_, hcmd, haddr, _⟩ := h
    exact .inr ⟨.inl hres, hcmd, haddr⟩
  case h_3 hres _ | h_4 hres _ =>
    obtain ⟨_, hcmd, haddr, _⟩ := h
    exact .inr ⟨.inr hres, hcmd, haddr⟩
  case h_5 hres _ | h_6 hres _ =>
    obtain ⟨_, _, hcmd, haddr, _⟩ := h
    exact .inr ⟨.inr hres, hcmd, haddr⟩
  case h_7 => exact h.elim

/-- The verdict on the accumulated word, read from the word that is kept. -/
theorem Decoder.validate_verdict (d : Decoder) :
    d.validate.reason = (if complementOk d.validate.raw then .none else .complementMismatch) ∧
    d.validate.result = (if complementOk d.validate.raw then .command else .invalid) := by
  rw [validate_raw]
  rcases d.validate_cases with ⟨hok, e⟩ | ⟨hok, e⟩ <;> rw [e, hok] <;> exact ⟨rfl, rfl⟩

/-! ### The order of the causes -/

section Causes
variable {p : Params} {x : Nat → PulseSymbol}

theorem decodeWindow_of_other_count {n : Word} (h1 : n ≠ 1#32) (h33 : n ≠ 33#32) :
    decodeWindow p n x = Decoded.invalid .wrongSymbolCount :=
  if_pos ⟨h1, h33⟩

theorem decodeWindow_of_bad_repeat_lead (hlead : classAt p x 0 .lead ≠ .leadRepeat) :
    decodeWindow p 1#32 x = Decoded.invalid .badLeadMarker :=
  if_neg hlead

theorem decodeWindow_of_bad_normal_lead (hlead : classAt p x 0 .lead ≠ .leadNormal) :
    decodeWindow p 33#32 x = Decoded.invalid .badLeadMarker :=
  if_pos hlead

theorem decodeWindow_of_normal_lead (hlead : classAt p x 0 .lead = .leadNormal) :
    decodeWindow p 33#32 x = decodePayload p x 32 1 0#32 :=
  if_neg (not_not.mpr hlead)

/-- The first unrecognized payload symbol is the one reported, whatever stands after it. -/
theorem decodePayload_of_first_unrecognized {fuel i j : Nat} (w : Word) (hij : i ≤ j) (hj : j < i + fuel)
    (hbad : classAt p x j .bit = .unrecognized)
    (hgood : ∀ k, i ≤ k → k < j → classAt p x k .bit ≠ .unrecognized) :
    decodePayload p x fuel i w = ⟨.invalid, .badPayloadBit, BitVec.ofNat 6 j, 0#8, 0#8, 0#32⟩ := by
  induction fuel generalizing i w with
  | zero => omega
  | succ fuel ih =>
    rw [decodePayload_succ]
    rcases hij.eq_or_lt with rfl | hlt
    · exact if_pos hbad
    · rw [if_neg (hgood i le_rfl hlt)]
      exact ih _ hlt (by omega) fun k hk => hgood k (by omega)

end Causes

end Sys2Proof.Machine

namespace Sys2Proof

open Machine

/-- A window whose symbols were all presented leaves the reference function's result. -/
theorem runWords_wholeWindow_decoded {s t : State} {n : Word} {ws : List PortWord}
    (hquiet : ∀ w ∈ ws, isQuiet w = true) (hwhole : n = 1#32 ∨ n = 33#32 → n.toNat ≤ (presentedSymbols ws).length)
    (hrun : runWords (encode (.start n) :: ws) s = .next t) :
    t.dec.decoded = decodeWindow s.params n (windowOf (presentedSymbols ws)) := by
  have htaken : symbolsTaken s.params n (windowOf (presentedSymbols ws)) ≤ (presentedSymbols ws).length := by
    by_cases hlegal : n = 1#32 ∨ n = 33#32
    · exact ((symbolsTaken_le _ _ n).trans (min_le_left _ _)).trans (hwhole hlegal)
    · obtain ⟨h1, h33⟩ := not_or.mp hlegal
      rw [symbolsTaken_of_other_count _ _ h1 h33]
      exact Nat.zero_le _
  obtain ⟨_, hrun', hended, _⟩ := decoderAgreesWithTheReferenceFunction s n _ ws (decode_encode (.start n)) hquiet
  rw [hrun] at hrun'
  cases hrun'
  obtain ⟨_, _, hdecoded⟩ := hended htaken
  exact hdecoded

/-- Settles O35: every operation has its next state, and a step performs the operation it fetches. -/
theorem everyStepAnswersANextState : Obligations.EveryStepAnswersANextState :=
  ⟨fun s => ⟨_, exec_eq_after (decode s.fetch.1) s.fetch.2⟩, fun i s => ⟨_, exec_eq_after i s⟩⟩

/-- Settles O42: the step keeps the invariant, under which the registers hold nothing, a command from a word that passes
the check, or a result without bytes. -/
theorem noPartialCommandApplication : Obligations.NoPartialCommandApplication := by
  intro s t hinv hstep
  rcases Decoder.Inv.holdsResult_or_holdsNothing (everyStepKeepsTheInvariant s t hinv hstep) with hheld | hnothing
  · have ⟨hdone, _⟩ := hheld
    rcases hheld.command_or_no_bytes with ⟨hres, hok, hcmd, haddr⟩ | ⟨hres, hcmd, haddr⟩
    · refine ⟨iff_of_true hdone (.inl hres), fun _ => hres, fun _ b hb => ?_⟩
      obtain ⟨haddrPair, hcmdPair⟩ := (complementOk_iff t.dec.raw).mp hok b hb
      rw [hcmd, haddr]
      exact ⟨getLsbD_commandOf _ hb, hcmdPair, getLsbD_addressOf _ hb, haddrPair⟩
    · refine ⟨iff_of_true hdone (.inr hres), fun hbyte => ?_, fun hcommand => ?_⟩
      · simp [hcmd, haddr] at hbyte
      · simp [hcommand] at hres
  · obtain ⟨hdone, hres, _, _, hcmd, haddr, _⟩ := hnothing
    simp [hdone, hres, hcmd, haddr]

/-- Settles O49: a whole window leaves the reference function's result, which tests the causes in that order; where every
payload symbol is recognized the registers are those of the check. -/
theorem firstCauseInOrderIsReported : Obligations.FirstCauseInOrderIsReported := by
  intro s t n ws hquiet hwhole hrun
  have hdecoded := runWords_wholeWindow_decoded hquiet hwhole hrun
  have hresult : t.dec.result = (decodeWindow s.params n _).result := congrArg Decoded.result hdecoded
  have hreason : t.dec.reason = (decodeWindow s.params n _).reason := congrArg Decoded.reason hdecoded
  have hindex : t.dec.badIndex = (decodeWindow s.params n _).badIndex := congrArg Decoded.badIndex hdecoded
  refine ⟨fun h1 h33 => ?_, ?_, ?_, ?_, ?_⟩
  · rw [hresult, hreason, decodeWindow_of_other_count h1 h33]
    exact ⟨rfl, rfl⟩
  · rintro rfl hlead
    rw [hresult, hreason, decodeWindow_of_bad_repeat_lead hlead]
    exact ⟨rfl, rfl⟩
  · rintro rfl hlead
    rw [hresult, hreason, decodeWindow_of_bad_normal_lead hlead]
    exact ⟨rfl, rfl⟩
  · rintro j rfl hlead hj hj32 hbad hgood
    rw [hresult, hreason, hindex, decodeWindow_of_normal_lead hlead,
      decodePayload_of_first_unrecognized 0#32 hj (by omega) hbad hgood]
    exact ⟨rfl, rfl, Nat.mod_eq_of_lt (by omega)⟩
  · rintro rfl hlead hrec
    rw [runWords_recognizedFrame_dec hquiet (hwhole (.inr rfl)) hlead hrec hrun]
    exact Decoder.validate_verdict _

end Sys2Proof
end

section
/-! Runs of a host program (R83, R213, R224): what any run keeps, what a `RESET` in it gives, and what the check on a
program says of each word. -/

namespace Sys2Proof

open Machine

/-! ### What a run keeps -/

namespace Machine

theorem step_params {s t : State} (h : step s = .next t) : t.params = s.params := by
  rcases step_cases h with ⟨_, rfl⟩ | ⟨w, rest, _, rfl⟩
  · rfl
  · rw [after_params, State.setPending_params]

theorem afterWords_inv (ws : List PortWord) {s : State} (h : s.Inv) : (afterWords ws s).Inv := by
  induction ws generalizing s with
  | nil => exact h
  | cons w ws ih => exact ih (after_inv (decode w) h)

/-- A `RESET` among the words gives the invariant, and the words after it keep it. -/
theorem afterWords_inv_of_reset {ws : List PortWord} (h : ∃ w ∈ ws, decode w = .reset) (s : State) :
    (afterWords ws s).Inv := by
  obtain ⟨w, hmem, hreset⟩ := h
  obtain ⟨before, rest, rfl⟩ := List.append_of_mem hmem
  rw [afterWords_append, afterWords_cons, hreset]
  exact afterWords_inv rest Decoder.resetValues_inv

/-- The result outputs of registers that hold nothing. -/
theorem Decoder.HoldsNothing.outputs {s : State} (h : s.dec.HoldsNothing) :
    s.outputs.doneO = 0#1 ∧ s.outputs.resultO = 0#2 ∧ s.outputs.reasonO = 0#3 ∧ s.outputs.badIndexO = 0#6 ∧
      s.outputs.cmdO = 0#8 ∧ s.outputs.addrO = 0#8 ∧ s.outputs.rawO = 0#32 := by
  obtain ⟨hdone, hresult, hreason, hbad, hcmd, haddr, hraw⟩ := h
  refine ⟨?_, ?_, ?_, hbad, hcmd, haddr, hraw⟩
  · rw [State.outputs, hdone]
    rfl
  · rw [State.outputs, hresult]
    rfl
  · rw [State.outputs, hreason]
    rfl

end Machine

/-! ### The check on a host program -/

theorem decodeIpc_ne_reset (w : BitVec 65) : decodeIpc w ≠ .reset := by
  unfold decodeIpc
  split <;> simp

theorem decodeIpc_ne_start (w : BitVec 65) (n : Word) : decodeIpc w ≠ .start n := by
  unfold decodeIpc
  split <;> simp

/-- The check is over at a `RESET`, fails at a `START`, and passes over any other word. -/
theorem programResetsBeforeStart_cons_iff (w : PortWord) (ws : List PortWord) :
    programResetsBeforeStart (w :: ws) = true ↔
      decode w = .reset ∨ (∀ n, decode w ≠ .start n) ∧ programResetsBeforeStart ws = true := by
  cases w with
  | ipc w => simp [programResetsBeforeStart, decode, decodeIpc_ne_reset, decodeIpc_ne_start]
  | ifd ctrl count mark space =>
    rw [programResetsBeforeStart]
    cases hrst : ctrl.getLsbD 2 with
    | true => simp [decode_ifd_of_rst _ _ _ hrst]
    | false =>
      cases hstart : ctrl.getLsbD 1 with
      | true => simp [decode_ifd_of_start _ _ _ hrst hstart]
      | false =>
        cases hvalid : ctrl.getLsbD 0 with
        | true => simp [decode_ifd_of_sym _ _ _ hrst hstart hvalid]
        | false => simp [decode_ifd_of_nop _ _ _ hrst hstart hvalid]

/-- Every `START` of a program has a `RESET` before it. -/
def EveryStartFollowsAReset (ws : List PortWord) : Prop :=
  ∀ (before rest : List PortWord) (w : PortWord) (n : Word), ws = before ++ w :: rest → decode w = .start n →
    ∃ v ∈ before, decode v = .reset

theorem everyStartFollowsAReset_nil : EveryStartFollowsAReset [] := by
  intro before rest w n hsplit
  simp at hsplit

/-- Behind a `RESET` anything may stand; any other first word is no `START`, and helps no `START` behind it. -/
theorem everyStartFollowsAReset_cons_iff (w : PortWord) (ws : List PortWord) :
    EveryStartFollowsAReset (w :: ws) ↔
      decode w = .reset ∨ (∀ n, decode w ≠ .start n) ∧ EveryStartFollowsAReset ws := by
  constructor
  · intro h
    refine or_iff_not_imp_left.mpr fun hreset => ⟨fun n hstart => ?_, fun before rest u n hsplit hstart => ?_⟩
    · obtain ⟨v, hv, _⟩ := h [] ws w n rfl hstart
      exact absurd hv List.not_mem_nil
    · obtain ⟨v, hv, hvreset⟩ := h (w :: before) rest u n (congrArg (w :: ·) hsplit) hstart
      rcases List.mem_cons.mp hv with rfl | hbefore
      · exact absurd hvreset hreset
      · exact ⟨v, hbefore, hvreset⟩
  · intro h before rest u n hsplit hstart
    cases before with
    | nil =>
      obtain ⟨rfl, rfl⟩ := List.cons.inj hsplit
      simp [hstart] at h
    | cons v before =>
      obtain ⟨rfl, rfl⟩ := List.cons.inj hsplit
      rcases h with hreset | ⟨_, hrest⟩
      · exact ⟨w, List.mem_cons_self, hreset⟩
      · obtain ⟨v, hv, hvreset⟩ := hrest before rest u n rfl hstart
        exact ⟨v, List.mem_cons_of_mem _ hv, hvreset⟩

/-! ### The obligations -/

/-- Settles O36: no operation writes the parameters, so neither a step nor a run of them does. -/
theorem parametersNeverChange : Obligations.ParametersNeverChange := by
  refine ⟨fun s t => step_params, fun ws s t hrun => ?_⟩
  rw [runWords_eq] at hrun
  cases hrun
  rw [State.setPending_params, afterWords_params]

/-- Settles O41: the step keeps the invariant, under which a busy decoder holds nothing. -/
theorem busyOutputsReadNone : Obligations.BusyOutputsReadNone := by
  intro s t hinv hstep hbusy
  have hinv' := everyStepKeepsTheInvariant s t hinv hstep
  exact (Decoder.Inv.holdsNothing_of_busy hinv' (t.outputs_busyO_eq_one_iff.mp hbusy)).outputs

/-- Settles O45: quiet words change the registers by their symbols alone, and a busy decoder holds nothing. -/
theorem waitingDecoderNeverTimesOut : Obligations.WaitingDecoderNeverTimesOut := by
  intro s ws hinv hbusy hquiet hnone
  have hdec : (afterWords ws s).dec = s.dec := by
    rw [afterWords_quiet_dec ws s hquiet, hnone, Decoder.feed_nil]
  refine ⟨_, runWords_eq ws s, hdec, ?_⟩
  rw [State.outputs_busyO_eq_one_iff, State.setPending_dec, hdec]
  have hnothing : ((afterWords ws s).setPending []).dec.HoldsNothing := by
    rw [State.setPending_dec, hdec]
    exact Decoder.Inv.holdsNothing_of_busy hinv hbusy
  obtain ⟨hdone, _⟩ := hnothing.outputs
  exact ⟨hbusy, hdone⟩

/-- Settles O53: the two clauses of R151, for a window with one symbol in each cycle. -/
theorem completionTakesOneEdgePerSymbol : Obligations.CompletionTakesOneEdgePerSymbol := by
  intro s t n l hrun
  have hquiet : ∀ w ∈ l.map symbolWord, isQuiet w = true := List.forall_mem_map.mpr fun x _ => symbolWord_isQuiet x
  obtain ⟨_, hrun', hended, hwaiting⟩ :=
    decoderAgreesWithTheReferenceFunction s n _ (l.map symbolWord) (decode_encode (.start n)) hquiet
  rw [hrun] at hrun'
  cases hrun'
  rw [presentedSymbols_map_symbolWord] at hended hwaiting
  constructor
  · intro hdone
    by_contra hfew
    obtain ⟨hnot, _⟩ := hwaiting (Nat.lt_of_not_le hfew)
    simp [hdone] at hnot
  · intro hall
    obtain ⟨hdone, _⟩ := hended hall
    exact hdone

/-- Settles O59, by induction on the program: the check and its meaning say the same of the first word. -/
theorem checkPassesIfEveryStartFollowsAReset : Obligations.CheckPassesIfEveryStartFollowsAReset := by
  intro ws
  change programResetsBeforeStart ws = true ↔ EveryStartFollowsAReset ws
  induction ws with
  | nil => exact iff_of_true rfl everyStartFollowsAReset_nil
  | cons w ws ih => rw [programResetsBeforeStart_cons_iff, everyStartFollowsAReset_cons_iff, ih]

/-- Settles O60: the run ends in the state after its words, one of which is a `RESET`. -/
theorem runsThatResetHaveTheInvariant : Obligations.RunsThatResetHaveTheInvariant := fun s ws hreset =>
  ⟨_, runWords_eq ws s, afterWords_inv_of_reset hreset s⟩

/-- Settles O17: `rst_i` alone selects `RESET`, which writes the table of R36 and nothing else. -/
theorem resetLoadsTheResetTable : Obligations.ResetLoadsTheResetTable := fun _ count mark space s hrst =>
  ⟨decode_ifd_of_rst count mark space hrst, _, exec_eq_after .reset s, rfl, rfl, rfl, rfl, rfl, rfl, rfl⟩

/-- Settles O39: the table of R36 and the registers after a `START` have the invariant, whatever was there before. -/
theorem resetAndStartEstablishTheInvariant : Obligations.ResetAndStartEstablishTheInvariant := fun s count =>
  ⟨⟨_, exec_eq_after .reset s, Decoder.resetValues_inv⟩, ⟨_, exec_start count s, s.dec.start_inv count⟩⟩

end Sys2Proof
end
